-- ==== Sys2Proof/Word.lean ====
section
/-! DEFINITION. The two widths of the core: 8-bit cells and 16-bit counters and addresses
(spec 00_scope.md R7). Every value is unsigned (R8). -/

namespace Sys2Proof

/-- A byte: a general register, a memory byte, an instruction byte (00_scope.md R7). -/
abbrev Byte := BitVec 8

/-- A 16-bit value: `SP`, `PC`, a pair view, an address (00_scope.md R7, 20_memory.md R60). -/
abbrev Word := BitVec 16

end Sys2Proof
end

