-- ==== Sys2Proof/Config.lean ====
section
/-! DEFINITION. What the spec leaves to the environment and gives no value: one free value. -/

namespace Sys2Proof

/-- FREE VALUE (notes/assumptions/4.md). What the data-read port answers for an address whose byte the
memory collaborator does not hold, where its field `unheld` has no answer for such an address: "The value
returned is whatever the collaborator answers; the core puts no law on it" (20_memory.md R64;
93_implementation_defined.md U5). `k` numbers the answers given this way since reset, `a` is the address
read. No body: nothing can be proved of its value. -/
opaque Config.openData (k : Nat) (a : Word) : Byte

end Sys2Proof
end

