-- ==== Sys2Proof/Syntax.lean ====
section
/-! DEFINITION. Instructions as data: register names, operand sources, the classes of leading bytes
without semantics, and `Instr`, one constructor per row of spec/opcode_table.json. -/

namespace Sys2Proof

/-- The seven general registers (10_state.md R20). `Acc` is the accumulator, written `A` in the spec. -/
inductive Reg8 where
  | B | C | D | E | H | L | Acc
  deriving DecidableEq, Repr

/-- The operand source, the spec's `ArithSource`: "a closed variant over {named 8-bit register, memory
cell addressed by the HL register pair, literal byte embedded in the instruction stream}"
(40_step_and_operands.md R134). -/
inductive ArithSource where
  | reg (x : Reg8)
  | indirect
  | immediate (n : Byte)
  deriving DecidableEq, Repr

/-- The classes of leading bytes without semantics (30_encoding.md R105, 60_exceptions.md R202). -/
inductive UnimplClass where
  | block0 | block1 | block2Op | block3ImmOp | block3Other | prefixed
  deriving DecidableEq, Repr

/-- One constructor per row of spec/opcode_table.json, in the table's order.
The first nine are the instructions with semantics (41_alu_add.md R153 to R161). The others are the rows
the classifier routes and the core gives no meaning (42_unimplemented.md R181 to R186). Such a row keeps
what its encoding leaves variable: the register code `r` of format ALU-R, the second byte of ALU-I and
PFX, and, where the bits are not interpreted (`x` in the table), the whole leading byte `b0`
(notes/assumptions/13.md). -/
inductive Instr where
  /-- `Add(Reg(B))`, 0x80 (R153). -/
  | addRegB
  /-- `Add(Reg(C))`, 0x81 (R154). -/
  | addRegC
  /-- `Add(Reg(D))`, 0x82 (R155). -/
  | addRegD
  /-- `Add(Reg(E))`, 0x83 (R156). -/
  | addRegE
  /-- `Add(Reg(H))`, 0x84 (R157). -/
  | addRegH
  /-- `Add(Reg(L))`, 0x85 (R158). -/
  | addRegL
  /-- `Add(Indirect)`, 0x86 (R159). -/
  | addIndirect
  /-- `Add(Reg(Acc))`, 0x87 (R160). -/
  | addRegAcc
  /-- `Add(Immediate(n))`, 0xC6 n (R161). -/
  | addImmediate (n : Byte)
  /-- ALU-R with `op = 1`, 0x88 to 0x8F (R183). -/
  | block2Op1 (r : BitVec 3)
  /-- ALU-R with `op = 2`, 0x90 to 0x97 (R183). -/
  | block2Op2 (r : BitVec 3)
  /-- ALU-R with `op = 3`, 0x98 to 0x9F (R183). -/
  | block2Op3 (r : BitVec 3)
  /-- ALU-R with `op = 4`, 0xA0 to 0xA7 (R183). -/
  | block2Op4 (r : BitVec 3)
  /-- ALU-R with `op = 5`, 0xA8 to 0xAF (R183). -/
  | block2Op5 (r : BitVec 3)
  /-- ALU-R with `op = 6`, 0xB0 to 0xB7 (R183). -/
  | block2Op6 (r : BitVec 3)
  /-- ALU-R with `op = 7`, 0xB8 to 0xBF (R183). -/
  | block2Op7 (r : BitVec 3)
  /-- ALU-I with `op = 1`, 0xCE n (R184). -/
  | block3ImmOp1 (n : Byte)
  /-- ALU-I with `op = 2`, 0xD6 n (R184). -/
  | block3ImmOp2 (n : Byte)
  /-- ALU-I with `op = 3`, 0xDE n (R184). -/
  | block3ImmOp3 (n : Byte)
  /-- ALU-I with `op = 4`, 0xE6 n (R184). -/
  | block3ImmOp4 (n : Byte)
  /-- ALU-I with `op = 5`, 0xEE n (R184). -/
  | block3ImmOp5 (n : Byte)
  /-- ALU-I with `op = 6`, 0xF6 n (R184). -/
  | block3ImmOp6 (n : Byte)
  /-- ALU-I with `op = 7`, 0xFE n (R184). -/
  | block3ImmOp7 (n : Byte)
  /-- The escape 0xCB and its second byte (R185). -/
  | prefixed (sel : Byte)
  /-- Block 0, 0x00 to 0x3F (R181). -/
  | block0 (b0 : Byte)
  /-- Block 1, 0x40 to 0x7F (R182). -/
  | block1 (b0 : Byte)
  /-- Block 3, `r = 0` (R186). -/
  | block3OtherR0 (b0 : Byte)
  /-- Block 3, `r = 1` (R186). -/
  | block3OtherR1 (b0 : Byte)
  /-- Block 3, `r = 2` (R186). -/
  | block3OtherR2 (b0 : Byte)
  /-- Block 3, `r = 4` (R186). -/
  | block3OtherR4 (b0 : Byte)
  /-- Block 3, `r = 5` (R186). -/
  | block3OtherR5 (b0 : Byte)
  /-- Block 3, `r = 7` (R186). -/
  | block3OtherR7 (b0 : Byte)
  /-- Block 3, `r = 3`, `op = 0`: the one byte 0xC3 (R186). -/
  | block3OtherR3Op0
  /-- Block 3, `r = 3`, `op = 2` or `3`: 0xD3, 0xDB (R186). -/
  | block3OtherR3Op2To3 (b0 : Byte)
  /-- Block 3, `r = 3`, `op = 4` to `7`: 0xE3, 0xEB, 0xF3, 0xFB (R186). -/
  | block3OtherR3Op4To7 (b0 : Byte)
  deriving DecidableEq, Repr

end Sys2Proof
end

