-- ==== Sys2Proof/Machine/State.lean ====
section
/-! DEFINITION. The core's state (spec 10_state.md) and the memory collaborator beside it (spec
20_memory.md), as plain data; the state after reset; the reasons a step can stop. -/

namespace Sys2Proof.Machine

/-- The flags byte's four stored bits: "Zero=bit7, Subtract=bit6, Half-Carry=bit5, Carry=bit4"
(10_state.md R29). Bits 3 to 0 have no storage, so a state with `F[3:0]` non-zero cannot be written down
(R30). -/
structure Flags where
  Z : Bool
  N : Bool
  H : Bool
  C : Bool
  deriving DecidableEq, Repr

/-- The names of the four flags (10_state.md R29). -/
inductive FlagName where
  | Z | N | H | C
  deriving DecidableEq, Repr

/-- The three pair views (10_state.md R21). There is no fourth (R33). -/
inductive Pair where
  | BC | DE | HL
  deriving DecidableEq, Repr

/-- Bytes held at addresses 0x0000 to 0xFFFF (20_memory.md R60). An address that is not listed holds no
byte. -/
abbrev Memory := List Host.Cell

/-- What an address that is not listed reads as: no byte (20_memory.md R62 `absent`;
notes/assumptions/3.md). -/
def Memory.unlisted : Option Byte := none

/-- The canonical form: addresses strictly rising, each within the 16-bit space (20_memory.md R60). No
entry equals what an unlisted address reads as, since an entry is a byte and that is none. -/
abbrev Memory.wf (m : Memory) : Prop :=
  m.Pairwise (fun x y => x.1 < y.1) ∧ ∀ c ∈ m, c.1 < 65536

/-- The memory collaborator, the parameters `Mem` and `IStream` of 00_scope.md R7, as plain data
(notes/assumptions/4.md). -/
structure Collaborator where
  /-- The bytes it holds, for both ports (20_memory.md R72). -/
  cells : Memory
  /-- What it will answer to the next data reads, whatever it holds; first answer first (20_memory.md R64:
  "a parameter or an oracle"). -/
  replies : List Byte
  /-- What it answers to a data read at an address it holds no byte at: this byte, or a value left free
  (20_memory.md R64; the reference memory of R80 answers 0x00). -/
  unheld : Option Byte
  /-- The MODEL'S OWN field: how many data reads were answered by the free value `Config.openData`. -/
  freeIndex : Nat
  deriving DecidableEq, Repr

/-- The whole state: the core's (10_state.md R20, R24, R25, R29; nothing else, R34 and R35), and the
collaborator's. -/
structure State where
  A : Byte
  B : Byte
  C : Byte
  D : Byte
  E : Byte
  H : Byte
  L : Byte
  F : Flags
  SP : Word
  PC : Word
  mem : Collaborator
  deriving DecidableEq, Repr

/-- `F = 0x00` (10_state.md R39, R42). -/
def Flags.zero : Flags := ⟨false, false, false, false⟩

/-- A collaborator that holds nothing, has no answer ready and leaves every data answer free (DESIGN CHOICE,
notes/assumptions/5.md). -/
def Collaborator.empty : Collaborator where
  cells := []
  replies := []
  unheld := none
  freeIndex := 0

/-- "After reset every piece of state is zero" (10_state.md R42). The collaborator "is not reset by the
core and its contents at reset are its own" (70_reset_and_hazards.md R241); what stands here for it is
notes/assumptions/5.md. -/
def State.reset : State where
  A := 0x00
  B := 0x00
  C := 0x00
  D := 0x00
  E := 0x00
  H := 0x00
  L := 0x00
  F := Flags.zero
  SP := 0x0000
  PC := 0x0000
  mem := Collaborator.empty

/-- Why a step ends in a fault. -/
inductive Fault where
  /-- `DecodeInvalid` (60_exceptions.md R201). Raised by `step` when a byte the format needs is absent from
  the fetch window. It carries no value. Safe: the spec's own outcome, the state unchanged. -/
  | decodeInvalid
  deriving DecidableEq, Repr

/-- Why a step is refused. -/
inductive Refusal where
  /-- An instruction without a meaning in this model: raised by no arm of `exec`. Safe. -/
  | notModelled (mnemonic : String)
  /-- `Unimplemented(class, b0[, b1])` (60_exceptions.md R202, 42_unimplemented.md R187: "It is a refusal").
  Raised by the meanings of the 26 rows without semantics. Safe: the spec's own outcome, the state
  unchanged. -/
  | unimplemented (c : UnimplClass) (b0 : Byte) (b1 : Option Byte)
  deriving DecidableEq, Repr

/-- One read the core issues on a port of the collaborator (20_memory.md R62, R64). -/
inductive PortRead where
  | fetch (a : Word)
  | data (a : Word)
  deriving DecidableEq, Repr

end Sys2Proof.Machine
end

