-- ==== Sys2Proof/Machine/Flags.lean ====
section
/-! DEFINITION. The flags byte and its accessors (spec 10_state.md R29, R39, R40), and the arithmetic of
Add with its four flags (spec 41_alu_add.md R150, R151). -/

namespace Sys2Proof.Machine

/-! ## The flags byte -/

/-- One bit as a vector of width one. -/
def flagBit (t : Bool) : BitVec 1 := BitVec.ofBool t

/-- `F.get()`: the byte `Z ++ N ++ H ++ C ++ 0b0000` (10_state.md R29, R40). -/
def Flags.toByte (f : Flags) : Byte := flagBit f.Z ++ flagBit f.N ++ flagBit f.H ++ flagBit f.C ++ 0#4

/-- `F.set(b)`: "`set(byte)` stores only the top nibble" (10_state.md R39). -/
def Flags.ofByte (b : Byte) : Flags :=
  ⟨b.getLsbD 7, b.getLsbD 6, b.getLsbD 5, b.getLsbD 4⟩

/-- `f.get()` for one flag (10_state.md R40). -/
def Flags.get (x : FlagName) (f : Flags) : Bool :=
  match x with
  | .Z => f.Z
  | .N => f.N
  | .H => f.H
  | .C => f.C

/-- `f.set(t)` for one flag: the others stay as they were (10_state.md R40). -/
def Flags.set (x : FlagName) (t : Bool) (f : Flags) : Flags :=
  match x with
  | .Z => { f with Z := t }
  | .N => { f with N := t }
  | .H => { f with H := t }
  | .C => { f with C := t }

/-- The fixed position of a flag in the byte: 7, 6, 5, 4 (10_state.md R29). -/
def FlagName.bit (x : FlagName) : Nat :=
  match x with
  | .Z => 7
  | .N => 6
  | .H => 5
  | .C => 4

/-! ## Add -/

/-- `sum9 = zext_9(a) + zext_9(v)`: nine bits, no wrap possible (41_alu_add.md R150). -/
def sum9 (a v : Byte) : BitVec 9 := a.setWidth 9 + v.setWidth 9

/-- `result = sum9[7:0]` (41_alu_add.md R150). -/
def addResult (a v : Byte) : Byte := (sum9 a v).extractLsb' 0 8

/-- Zero: "Zero flag = result == 0." (41_alu_add.md R151). -/
def addZ (a v : Byte) : Bool := addResult a v == 0x00

/-- Half-Carry: "set when the low nibble of `result` is numerically less than the low nibble of
`operand`", this exact comparison (41_alu_add.md R151). -/
def addH (a v : Byte) : Bool :=
  decide ((addResult a v).extractLsb' 0 4 < v.extractLsb' 0 4)

/-- Carry: the ninth bit of the sum (41_alu_add.md R150, R151). -/
def addC (a v : Byte) : Bool := (sum9 a v).getLsbD 8

/-- The four flags after Add, from the two operands alone; Subtract is "cleared unconditionally"
(41_alu_add.md R151). -/
def addFlags (a v : Byte) : Flags := ⟨addZ a v, false, addH a v, addC a v⟩

end Sys2Proof.Machine
end

