-- ==== Sys2Proof/WellFormed.lean ====
section
/-! DEFINITION. Which terms of `Instr` are instructions. Register codes and operation fields cannot be out
of range by typing (60_exceptions.md R204). What is left to check: a constructor that keeps its whole
leading byte holds a byte of its own row (`b0 & mask == match`, 30_encoding.md R112). -/

namespace Sys2Proof

/-- `b0` belongs to the row with this mask and pattern (30_encoding.md R112). -/
def inRow (mask pattern b0 : Byte) : Bool := b0 &&& mask == pattern

/-- The instruction's kept leading byte is one of its row's. -/
def Instr.wf (i : Instr) : Bool :=
  match i with
  | .addRegB => true
  | .addRegC => true
  | .addRegD => true
  | .addRegE => true
  | .addRegH => true
  | .addRegL => true
  | .addIndirect => true
  | .addRegAcc => true
  | .addImmediate _ => true
  | .block2Op1 _ => true
  | .block2Op2 _ => true
  | .block2Op3 _ => true
  | .block2Op4 _ => true
  | .block2Op5 _ => true
  | .block2Op6 _ => true
  | .block2Op7 _ => true
  | .block3ImmOp1 _ => true
  | .block3ImmOp2 _ => true
  | .block3ImmOp3 _ => true
  | .block3ImmOp4 _ => true
  | .block3ImmOp5 _ => true
  | .block3ImmOp6 _ => true
  | .block3ImmOp7 _ => true
  | .prefixed _ => true
  | .block0 b0 => inRow 0xC0 0x00 b0
  | .block1 b0 => inRow 0xC0 0x40 b0
  | .block3OtherR0 b0 => inRow 0xC7 0xC0 b0
  | .block3OtherR1 b0 => inRow 0xC7 0xC1 b0
  | .block3OtherR2 b0 => inRow 0xC7 0xC2 b0
  | .block3OtherR4 b0 => inRow 0xC7 0xC4 b0
  | .block3OtherR5 b0 => inRow 0xC7 0xC5 b0
  | .block3OtherR7 b0 => inRow 0xC7 0xC7 b0
  | .block3OtherR3Op0 => true
  | .block3OtherR3Op2To3 b0 => inRow 0xF7 0xD3 b0
  | .block3OtherR3Op4To7 b0 => inRow 0xE7 0xE3 b0

end Sys2Proof
end

