-- ==== Sys2Proof/Decode.lean ====
section
/-! DEFINITION. The classifier, the block decoders, the decode result, the encoder and the opcode table
(spec 30_encoding.md). -/

namespace Sys2Proof

/-! ## Fields of the opcode byte -/

/-- `blk = b0[7:6]`, the block number (30_encoding.md R91). -/
def blkOf (b0 : Byte) : BitVec 2 := b0.extractLsb' 6 2

/-- `op = b0[5:3]`, the operation field (30_encoding.md R91). -/
def opOf (b0 : Byte) : BitVec 3 := b0.extractLsb' 3 3

/-- `r = b0[2:0]`, the register code (30_encoding.md R91). -/
def rOf (b0 : Byte) : BitVec 3 := b0.extractLsb' 0 3

/-- `b0 = blk ++ op ++ r` (30_encoding.md R91). -/
def opcodeByte (blk : BitVec 2) (op r : BitVec 3) : Byte := blk ++ op ++ r

/-! ## Operand sources -/

/-- The one shared register-code table: "0↔B … 5↔L, 6↔Indirect, 7↔Acc" (30_encoding.md R95). -/
def sourceOfCode (r : BitVec 3) : ArithSource :=
  match r with
  | 0#3 => .reg .B
  | 1#3 => .reg .C
  | 2#3 => .reg .D
  | 3#3 => .reg .E
  | 4#3 => .reg .H
  | 5#3 => .reg .L
  | 6#3 => .indirect
  | _ => .reg .Acc

/-- `from_opcode(byte)`: the source the low three bits name (30_encoding.md R95). -/
def fromOpcode (b0 : Byte) : ArithSource := sourceOfCode (rOf b0)

/-- `from_literal(byte)`: the whole second byte, unsigned, not extended (30_encoding.md R98). -/
def fromLiteral (n : Byte) : ArithSource := .immediate n

/-- The instruction value `Add(src)` (40_step_and_operands.md R135) as the constructor of its row. -/
def addOf (src : ArithSource) : Instr :=
  match src with
  | .reg .B => .addRegB
  | .reg .C => .addRegC
  | .reg .D => .addRegD
  | .reg .E => .addRegE
  | .reg .H => .addRegH
  | .reg .L => .addRegL
  | .reg .Acc => .addRegAcc
  | .indirect => .addIndirect
  | .immediate n => .addImmediate n

/-- Length in bytes of `Add(src)`, which is also its `PC` advance: 2 for an immediate source and 1
otherwise (40_step_and_operands.md R133, 41_alu_add.md R165). -/
def ArithSource.length (src : ArithSource) : Nat :=
  match src with
  | .reg _ => 1
  | .indirect => 1
  | .immediate _ => 2

/-! ## The block decoders -/

/-- Format ALU-R by its operation and operand fields (30_encoding.md R96, R99). The last case is `op = 7`. -/
def decodeBlock2 (op r : BitVec 3) : Instr :=
  match op with
  | 0#3 => addOf (sourceOfCode r)
  | 1#3 => .block2Op1 r
  | 2#3 => .block2Op2 r
  | 3#3 => .block2Op3 r
  | 4#3 => .block2Op4 r
  | 5#3 => .block2Op5 r
  | 6#3 => .block2Op6 r
  | _ => .block2Op7 r

/-- Format ALU-I by its operation field and second byte (30_encoding.md R97, R99). The last case is `op = 7`. -/
def decodeBlock3Imm (op : BitVec 3) (n : Byte) : Instr :=
  match op with
  | 0#3 => addOf (fromLiteral n)
  | 1#3 => .block3ImmOp1 n
  | 2#3 => .block3ImmOp2 n
  | 3#3 => .block3ImmOp3 n
  | 4#3 => .block3ImmOp4 n
  | 5#3 => .block3ImmOp5 n
  | 6#3 => .block3ImmOp6 n
  | _ => .block3ImmOp7 n

/-- The three rows of block 3 with `r = 3`, 0xCB already taken out (30_encoding.md R102, R112). -/
def decodeBlock3R3 (b0 : Byte) : Instr :=
  match opOf b0 with
  | 0#3 => .block3OtherR3Op0
  | 2#3 => .block3OtherR3Op2To3 b0
  | 3#3 => .block3OtherR3Op2To3 b0
  | _ => .block3OtherR3Op4To7 b0

/-- The rest of block 3, by the low three bits; `r = 6` is ALU-I and never comes here (30_encoding.md
R102). The last case is `r = 7`. -/
def decodeBlock3Other (b0 : Byte) : Instr :=
  match rOf b0 with
  | 0#3 => .block3OtherR0 b0
  | 1#3 => .block3OtherR1 b0
  | 2#3 => .block3OtherR2 b0
  | 3#3 => decodeBlock3R3 b0
  | 4#3 => .block3OtherR4 b0
  | 5#3 => .block3OtherR5 b0
  | _ => .block3OtherR7 b0

/-- The first byte belongs to one of the two formats known to be two bytes long: 0xCB, or block 3 with
`r = 0b110` (40_step_and_operands.md R131, 30_encoding.md R103). -/
def needsSecond (b0 : Byte) : Bool := b0 == 0xCB || (blkOf b0 == 3 && rOf b0 == 6)

/-- A block-3 byte whose format is ALU-I or other (30_encoding.md R97, R102). -/
def decodeBlock3 (b0 : Byte) (rest : List Byte) : Option Instr :=
  if rOf b0 = 6 then
    match rest with
    | [] => none
    | n :: _ => some (decodeBlock3Imm (opOf b0) n)
  else some (decodeBlock3Other b0)

/-- The decoder of 30_encoding.md R104 on a fetch window, as a row of the opcode table: first the prefix
escape (R92), then the block (R93). `none` is the result `Invalid`, a window too short (R105): the only
way to reject, since "every byte decodes to *something*" (R94). Bytes beyond the second are not looked at. -/
def decode (w : List Byte) : Option Instr :=
  match w with
  | [] => none
  | b0 :: rest =>
    if b0 = 0xCB then
      match rest with
      | [] => none
      | b1 :: _ => some (.prefixed b1)
    else
      match blkOf b0 with
      | 0#2 => some (.block0 b0)
      | 1#2 => some (.block1 b0)
      | 2#2 => some (decodeBlock2 (opOf b0) (rOf b0))
      | _ => decodeBlock3 b0 rest

/-! ## The encoder -/

/-- The bytes of an instruction, first byte first, from the encoding patterns of spec/opcode_table.json.
For a row without a length of its own this is the one byte the decoder looks at (30_encoding.md R103). -/
def encode (i : Instr) : List Byte :=
  match i with
  | .addRegB => [0x80]
  | .addRegC => [0x81]
  | .addRegD => [0x82]
  | .addRegE => [0x83]
  | .addRegH => [0x84]
  | .addRegL => [0x85]
  | .addIndirect => [0x86]
  | .addRegAcc => [0x87]
  | .addImmediate n => [0xC6, n]
  | .block2Op1 r => [opcodeByte 2 1 r]
  | .block2Op2 r => [opcodeByte 2 2 r]
  | .block2Op3 r => [opcodeByte 2 3 r]
  | .block2Op4 r => [opcodeByte 2 4 r]
  | .block2Op5 r => [opcodeByte 2 5 r]
  | .block2Op6 r => [opcodeByte 2 6 r]
  | .block2Op7 r => [opcodeByte 2 7 r]
  | .block3ImmOp1 n => [0xCE, n]
  | .block3ImmOp2 n => [0xD6, n]
  | .block3ImmOp3 n => [0xDE, n]
  | .block3ImmOp4 n => [0xE6, n]
  | .block3ImmOp5 n => [0xEE, n]
  | .block3ImmOp6 n => [0xF6, n]
  | .block3ImmOp7 n => [0xFE, n]
  | .prefixed sel => [0xCB, sel]
  | .block0 b0 => [b0]
  | .block1 b0 => [b0]
  | .block3OtherR0 b0 => [b0]
  | .block3OtherR1 b0 => [b0]
  | .block3OtherR2 b0 => [b0]
  | .block3OtherR4 b0 => [b0]
  | .block3OtherR5 b0 => [b0]
  | .block3OtherR7 b0 => [b0]
  | .block3OtherR3Op0 => [0xC3]
  | .block3OtherR3Op2To3 b0 => [b0]
  | .block3OtherR3Op4To7 b0 => [b0]

/-! ## The decode result of the spec -/

/-- The three decode results of 30_encoding.md R105. -/
inductive DecodeResult where
  /-- An instruction with semantics and its length in bytes. -/
  | ok (i : Instr) (length : Nat)
  /-- The window was too short; never "illegal opcode". -/
  | invalid
  /-- A leading byte without semantics: its class and the bytes fetched. -/
  | unimplemented (c : UnimplClass) (b0 : Byte) (b1 : Option Byte)
  deriving DecidableEq, Repr

/-- The operand source of an instruction with semantics; none for a row without (40_step_and_operands.md
R135: the union has exactly one variant, `Add(src)`). -/
def Instr.source? (i : Instr) : Option ArithSource :=
  match i with
  | .addRegB => some (.reg .B)
  | .addRegC => some (.reg .C)
  | .addRegD => some (.reg .D)
  | .addRegE => some (.reg .E)
  | .addRegH => some (.reg .H)
  | .addRegL => some (.reg .L)
  | .addIndirect => some .indirect
  | .addRegAcc => some (.reg .Acc)
  | .addImmediate n => some (.immediate n)
  | .block2Op1 _ => none
  | .block2Op2 _ => none
  | .block2Op3 _ => none
  | .block2Op4 _ => none
  | .block2Op5 _ => none
  | .block2Op6 _ => none
  | .block2Op7 _ => none
  | .block3ImmOp1 _ => none
  | .block3ImmOp2 _ => none
  | .block3ImmOp3 _ => none
  | .block3ImmOp4 _ => none
  | .block3ImmOp5 _ => none
  | .block3ImmOp6 _ => none
  | .block3ImmOp7 _ => none
  | .prefixed _ => none
  | .block0 _ => none
  | .block1 _ => none
  | .block3OtherR0 _ => none
  | .block3OtherR1 _ => none
  | .block3OtherR2 _ => none
  | .block3OtherR4 _ => none
  | .block3OtherR5 _ => none
  | .block3OtherR7 _ => none
  | .block3OtherR3Op0 => none
  | .block3OtherR3Op2To3 _ => none
  | .block3OtherR3Op4To7 _ => none

/-- The decode result a row stands for (column `decode` of spec/opcode_table.json). -/
def Instr.result (i : Instr) : DecodeResult :=
  match i with
  | .addRegB => .ok i 1
  | .addRegC => .ok i 1
  | .addRegD => .ok i 1
  | .addRegE => .ok i 1
  | .addRegH => .ok i 1
  | .addRegL => .ok i 1
  | .addIndirect => .ok i 1
  | .addRegAcc => .ok i 1
  | .addImmediate _ => .ok i 2
  | .block2Op1 r => .unimplemented .block2Op (opcodeByte 2 1 r) none
  | .block2Op2 r => .unimplemented .block2Op (opcodeByte 2 2 r) none
  | .block2Op3 r => .unimplemented .block2Op (opcodeByte 2 3 r) none
  | .block2Op4 r => .unimplemented .block2Op (opcodeByte 2 4 r) none
  | .block2Op5 r => .unimplemented .block2Op (opcodeByte 2 5 r) none
  | .block2Op6 r => .unimplemented .block2Op (opcodeByte 2 6 r) none
  | .block2Op7 r => .unimplemented .block2Op (opcodeByte 2 7 r) none
  | .block3ImmOp1 n => .unimplemented .block3ImmOp 0xCE (some n)
  | .block3ImmOp2 n => .unimplemented .block3ImmOp 0xD6 (some n)
  | .block3ImmOp3 n => .unimplemented .block3ImmOp 0xDE (some n)
  | .block3ImmOp4 n => .unimplemented .block3ImmOp 0xE6 (some n)
  | .block3ImmOp5 n => .unimplemented .block3ImmOp 0xEE (some n)
  | .block3ImmOp6 n => .unimplemented .block3ImmOp 0xF6 (some n)
  | .block3ImmOp7 n => .unimplemented .block3ImmOp 0xFE (some n)
  | .prefixed sel => .unimplemented .prefixed 0xCB (some sel)
  | .block0 b0 => .unimplemented .block0 b0 none
  | .block1 b0 => .unimplemented .block1 b0 none
  | .block3OtherR0 b0 => .unimplemented .block3Other b0 none
  | .block3OtherR1 b0 => .unimplemented .block3Other b0 none
  | .block3OtherR2 b0 => .unimplemented .block3Other b0 none
  | .block3OtherR4 b0 => .unimplemented .block3Other b0 none
  | .block3OtherR5 b0 => .unimplemented .block3Other b0 none
  | .block3OtherR7 b0 => .unimplemented .block3Other b0 none
  | .block3OtherR3Op0 => .unimplemented .block3Other 0xC3 none
  | .block3OtherR3Op2To3 b0 => .unimplemented .block3Other b0 none
  | .block3OtherR3Op4To7 b0 => .unimplemented .block3Other b0 none

/-- The entry point `decode(bytes)` with the spec's result type (30_encoding.md R105,
40_step_and_operands.md R133). -/
def decodeResult (w : List Byte) : DecodeResult :=
  match decode w with
  | none => .invalid
  | some i => i.result

/-! ## The opcode table -/

/-- One row of spec/opcode_table.json: `b0` belongs to it when `b0 & mask == match` (30_encoding.md R112). -/
structure Row where
  mnemonic : String
  pattern : Byte
  mask : Byte
  /-- The column `length`; `none` where the source gives none (30_encoding.md R103). -/
  length : Option Nat
  deriving DecidableEq, Repr

/-- The row of spec/opcode_table.json a constructor stands for. -/
def Instr.row (i : Instr) : Row :=
  match i with
  | .addRegB => ⟨"Add(Reg(B))", 0x80, 0xFF, some 1⟩
  | .addRegC => ⟨"Add(Reg(C))", 0x81, 0xFF, some 1⟩
  | .addRegD => ⟨"Add(Reg(D))", 0x82, 0xFF, some 1⟩
  | .addRegE => ⟨"Add(Reg(E))", 0x83, 0xFF, some 1⟩
  | .addRegH => ⟨"Add(Reg(H))", 0x84, 0xFF, some 1⟩
  | .addRegL => ⟨"Add(Reg(L))", 0x85, 0xFF, some 1⟩
  | .addIndirect => ⟨"Add(Indirect)", 0x86, 0xFF, some 1⟩
  | .addRegAcc => ⟨"Add(Reg(Acc))", 0x87, 0xFF, some 1⟩
  | .addImmediate _ => ⟨"Add(Immediate(n))", 0xC6, 0xFF, some 2⟩
  | .block2Op1 _ => ⟨"UNIMPL.Block2Op.op1", 0x88, 0xF8, some 1⟩
  | .block2Op2 _ => ⟨"UNIMPL.Block2Op.op2", 0x90, 0xF8, some 1⟩
  | .block2Op3 _ => ⟨"UNIMPL.Block2Op.op3", 0x98, 0xF8, some 1⟩
  | .block2Op4 _ => ⟨"UNIMPL.Block2Op.op4", 0xA0, 0xF8, some 1⟩
  | .block2Op5 _ => ⟨"UNIMPL.Block2Op.op5", 0xA8, 0xF8, some 1⟩
  | .block2Op6 _ => ⟨"UNIMPL.Block2Op.op6", 0xB0, 0xF8, some 1⟩
  | .block2Op7 _ => ⟨"UNIMPL.Block2Op.op7", 0xB8, 0xF8, some 1⟩
  | .block3ImmOp1 _ => ⟨"UNIMPL.Block3ImmOp.op1", 0xCE, 0xFF, some 2⟩
  | .block3ImmOp2 _ => ⟨"UNIMPL.Block3ImmOp.op2", 0xD6, 0xFF, some 2⟩
  | .block3ImmOp3 _ => ⟨"UNIMPL.Block3ImmOp.op3", 0xDE, 0xFF, some 2⟩
  | .block3ImmOp4 _ => ⟨"UNIMPL.Block3ImmOp.op4", 0xE6, 0xFF, some 2⟩
  | .block3ImmOp5 _ => ⟨"UNIMPL.Block3ImmOp.op5", 0xEE, 0xFF, some 2⟩
  | .block3ImmOp6 _ => ⟨"UNIMPL.Block3ImmOp.op6", 0xF6, 0xFF, some 2⟩
  | .block3ImmOp7 _ => ⟨"UNIMPL.Block3ImmOp.op7", 0xFE, 0xFF, some 2⟩
  | .prefixed _ => ⟨"UNIMPL.Prefixed", 0xCB, 0xFF, some 2⟩
  | .block0 _ => ⟨"UNIMPL.Block0", 0x00, 0xC0, none⟩
  | .block1 _ => ⟨"UNIMPL.Block1", 0x40, 0xC0, none⟩
  | .block3OtherR0 _ => ⟨"UNIMPL.Block3Other.r0", 0xC0, 0xC7, none⟩
  | .block3OtherR1 _ => ⟨"UNIMPL.Block3Other.r1", 0xC1, 0xC7, none⟩
  | .block3OtherR2 _ => ⟨"UNIMPL.Block3Other.r2", 0xC2, 0xC7, none⟩
  | .block3OtherR4 _ => ⟨"UNIMPL.Block3Other.r4", 0xC4, 0xC7, none⟩
  | .block3OtherR5 _ => ⟨"UNIMPL.Block3Other.r5", 0xC5, 0xC7, none⟩
  | .block3OtherR7 _ => ⟨"UNIMPL.Block3Other.r7", 0xC7, 0xC7, none⟩
  | .block3OtherR3Op0 => ⟨"UNIMPL.Block3Other.r3.op0", 0xC3, 0xFF, none⟩
  | .block3OtherR3Op2To3 _ => ⟨"UNIMPL.Block3Other.r3.op2-3", 0xD3, 0xF7, none⟩
  | .block3OtherR3Op4To7 _ => ⟨"UNIMPL.Block3Other.r3.op4-7", 0xE3, 0xE7, none⟩

/-- The nine rows with semantics. -/
def addRows : List Row :=
  [Instr.row .addRegB, Instr.row .addRegC, Instr.row .addRegD, Instr.row .addRegE, Instr.row .addRegH,
   Instr.row .addRegL, Instr.row .addIndirect, Instr.row .addRegAcc, Instr.row (.addImmediate 0)]

/-- The fourteen rows of operations 1 to 7. -/
def opRows : List Row :=
  [Instr.row (.block2Op1 0), Instr.row (.block2Op2 0), Instr.row (.block2Op3 0), Instr.row (.block2Op4 0),
   Instr.row (.block2Op5 0), Instr.row (.block2Op6 0), Instr.row (.block2Op7 0),
   Instr.row (.block3ImmOp1 0), Instr.row (.block3ImmOp2 0), Instr.row (.block3ImmOp3 0),
   Instr.row (.block3ImmOp4 0), Instr.row (.block3ImmOp5 0), Instr.row (.block3ImmOp6 0),
   Instr.row (.block3ImmOp7 0)]

/-- The twelve rows of the prefix escape, blocks 0 and 1 and the rest of block 3. -/
def otherRows : List Row :=
  [Instr.row (.prefixed 0), Instr.row (.block0 0), Instr.row (.block1 0x40),
   Instr.row (.block3OtherR0 0xC0), Instr.row (.block3OtherR1 0xC1), Instr.row (.block3OtherR2 0xC2),
   Instr.row (.block3OtherR4 0xC4), Instr.row (.block3OtherR5 0xC5), Instr.row (.block3OtherR7 0xC7),
   Instr.row .block3OtherR3Op0, Instr.row (.block3OtherR3Op2To3 0xD3),
   Instr.row (.block3OtherR3Op4To7 0xE3)]

/-- The 35 rows of spec/opcode_table.json, in its order. -/
def opcodeTable : List Row := addRows ++ opRows ++ otherRows

/-- The rows a leading byte belongs to (30_encoding.md R112 says: exactly one). -/
def rowsOf (b0 : Byte) : List Row := opcodeTable.filter fun row => inRow row.mask row.pattern b0

/-! ## The host's numbering of an instruction's bits -/

/-- The first two bytes of an instruction whose bits are `w` (bit 0 the least significant of the first
byte, 30_encoding.md R70), the bits from `nbits` up taken as 0 (notes/assumptions/18.md). -/
def tableBytes (nbits w : Nat) : Byte × Byte :=
  (BitVec.ofNat 8 (w % 2 ^ nbits), BitVec.ofNat 8 (w % 2 ^ nbits / 256))

/-- What the decoder reads from an instruction whose bits are `w`, numbered as spec/opcode_table.json
numbers them. -/
def decodeTableWord (nbits w : Nat) : Option Instr :=
  decode [(tableBytes nbits w).1, (tableBytes nbits w).2]

end Sys2Proof
end

