-- ==== Sys2Proof/Machine/Ops.lean ====
section
/-! DEFINITION. Named operations over registers, pair views, memory, the two read ports and the state.
The core takes no exception and returns from none (spec 60_exceptions.md R210, R211): what stands in their
place is an outcome with the state unchanged, `stopUnimplemented` here and the fault of `step`. -/

namespace Sys2Proof.Machine

/-! ## General registers, pair views, counters -/

/-- `get_r()` (10_state.md R36). -/
def getReg (r : Reg8) (s : State) : Byte :=
  match r with
  | .B => s.B
  | .C => s.C
  | .D => s.D
  | .E => s.E
  | .H => s.H
  | .L => s.L
  | .Acc => s.A

/-- `set_r(v)`: "does `r <- v` and changes nothing else" (10_state.md R36). -/
def setReg (r : Reg8) (v : Byte) (s : State) : State :=
  match r with
  | .B => { s with B := v }
  | .C => { s with C := v }
  | .D => { s with D := v }
  | .E => { s with E := v }
  | .H => { s with H := v }
  | .L => { s with L := v }
  | .Acc => { s with A := v }

/-- The first-named register of a pair, its high byte (10_state.md R21). -/
def Pair.hi (p : Pair) : Reg8 :=
  match p with
  | .BC => .B
  | .DE => .D
  | .HL => .H

/-- The second-named register of a pair, its low byte (10_state.md R21). -/
def Pair.lo (p : Pair) : Reg8 :=
  match p with
  | .BC => .C
  | .DE => .E
  | .HL => .L

/-- Reading a pair view: `BC = B ++ C` and likewise (10_state.md R21). -/
def getPair (p : Pair) (s : State) : Word := getReg p.hi s ++ getReg p.lo s

/-- Writing a pair view: `B <- v[15:8]; C <- v[7:0]` and likewise (10_state.md R22). -/
def setPair (p : Pair) (v : Word) (s : State) : State :=
  setReg p.lo (v.extractLsb' 0 8) (setReg p.hi (v.extractLsb' 8 8) s)

/-- `set_SP(v)` (10_state.md R38). -/
def setSP (v : Word) (s : State) : State := { s with SP := v }

/-- `set_PC(v)` (10_state.md R38). -/
def setPC (v : Word) (s : State) : State := { s with PC := v }

/-- Replacing the flags. -/
def setF (f : Flags) (s : State) : State := { s with F := f }

/-- Replacing the collaborator. -/
def setMem (m : Collaborator) (s : State) : State := { s with mem := m }

/-- `PC <- (PC + len) mod 2^16` (10_state.md R27, notes/assumptions/1.md). -/
def advancePC (pc : Word) (len : Nat) : Word := pc + BitVec.ofNat 16 len

/-- The writes of one executed Add, "one indivisible update" (41_alu_add.md R150): `A`, `F` and `PC`; and
the collaborator as the operand read left it. -/
def commit (a : Byte) (f : Flags) (pc : Word) (m : Collaborator) (s : State) : State :=
  { s with A := a, F := f, PC := pc, mem := m }

/-! ## Memory -/

/-- The byte held at an address, if any. -/
def Memory.read (m : Memory) (a : Nat) : Option Byte :=
  match m with
  | [] => Memory.unlisted
  | (k, b) :: rest => if k = a then some b else Memory.read rest a

/-- Holding a byte at an address from now on; the canonical form is kept. -/
def Memory.put (m : Memory) (a : Nat) (b : Byte) : Memory :=
  match m with
  | [] => [(a, b)]
  | (k, x) :: rest =>
    if a < k then (a, b) :: (k, x) :: rest
    else if a = k then (a, b) :: rest
    else (k, x) :: Memory.put rest a b

/-- Holding no byte at an address from now on. -/
def Memory.drop (m : Memory) (a : Nat) : Memory := m.filter fun c => c.1 != a

/-- The flat array of the reference memory, from address `a` upward (20_memory.md R80). -/
def Memory.ofBytes (a : Nat) (bs : List Byte) : Memory :=
  match bs with
  | [] => []
  | b :: rest => (a, b) :: Memory.ofBytes (a + 1) rest

/-- The reference memory `M`, for the spec's own test programs and "not part of the hardware" (20_memory.md
R80): absent on the fetch port beyond the array, 0x00 on the data port there, and no side effect. -/
def Collaborator.reference (M : List Byte) : Collaborator where
  cells := Memory.ofBytes 0 M
  replies := []
  unheld := some 0x00
  freeIndex := 0

/-! ## The two ports -/

/-- `Fetch(addr)`: a byte, or none for `absent` (20_memory.md R62). Which addresses are absent is the
parameter `IStream`: here, those the collaborator does not hold (notes/assumptions/3.md). -/
def fetch (m : Collaborator) (a : Word) : Option Byte := Memory.read m.cells a.toNat

/-- `FetchSecond(PC)`: the window "does not wrap to 0x0000" (20_memory.md R63, notes/assumptions/2.md). -/
def fetchSecond (m : Collaborator) (pc : Word) : Option Byte :=
  if pc = 0xFFFF then none else fetch m (pc + 1)

/-- `MemRead(addr, 1)`: total, "the value returned is whatever the collaborator answers" (20_memory.md
R64). Its next ready answer if it has one; else the byte it holds there (R72); else its answer for what it
does not hold, where it has one; else the free value. With the answer comes the collaborator after the read
(notes/assumptions/4.md). -/
def memRead (m : Collaborator) (a : Word) : Byte × Collaborator :=
  match m.replies with
  | b :: rest => (b, { m with replies := rest })
  | [] =>
    match Memory.read m.cells a.toNat with
    | some b => (b, m)
    | none =>
      match m.unheld with
      | some b => (b, m)
      | none => (Config.openData m.freeIndex a, { m with freeIndex := m.freeIndex + 1 })

/-- The bytes a step fetches (40_step_and_operands.md R131): the one at `PC`, and the second exactly when
the first needs it. -/
def fetchWindow (s : State) : List Byte :=
  match fetch s.mem s.PC with
  | none => []
  | some b0 =>
    if needsSecond b0 then
      match fetchSecond s.mem s.PC with
      | none => [b0]
      | some b1 => [b0, b1]
    else [b0]

/-- The fetch reads of a step, in order (20_memory.md R75, reads 1 and 2). At `PC = 0xFFFF` no second
read goes out (R63; 95_test_vectors.md 2.5). -/
def fetchReads (s : State) : List PortRead :=
  match fetch s.mem s.PC with
  | none => [.fetch s.PC]
  | some b0 =>
    if needsSecond b0 && s.PC != 0xFFFF then [.fetch s.PC, .fetch (s.PC + 1)] else [.fetch s.PC]

/-- The data read of a step: one `MemRead(HL, 1)` exactly when the step executes Add(Indirect)
(20_memory.md R75, read 3). -/
def dataReads (s : State) : List PortRead :=
  match (decode (fetchWindow s)).bind Instr.source? with
  | some .indirect => [.data (getPair .HL s)]
  | _ => []

/-- The reads of one step, all of them, in order (20_memory.md R75). -/
def stepReads (s : State) : List PortRead := fetchReads s ++ dataReads s

/-! ## Stopping -/

/-- The outcome `Unimplemented(class, b0[, b1])`: the core gives the byte no meaning, nothing changes
(42_unimplemented.md R180, R187). -/
def stopUnimplemented (c : UnimplClass) (b0 : Byte) (b1 : Option Byte) (_s : State) :
    Host.Outcome State Fault Refusal :=
  .refused (.unimplemented c b0 b1)

/-! ## Placing an instruction -/

/-- Two bytes held at `PC` and, where the address space goes on, at `PC + 1`. -/
def placeAtPC (b0 b1 : Byte) (s : State) : State :=
  let cells := Memory.put s.mem.cells s.PC.toNat b0
  if s.PC = 0xFFFF then setMem { s.mem with cells := cells } s
  else setMem { s.mem with cells := Memory.put cells (s.PC.toNat + 1) b1 } s

end Sys2Proof.Machine
end

