-- ==== Sys2Proof/Machine/Operands.lean ====
section
/-! DEFINITION. The operand resolver (spec 40_step_and_operands.md R136). -/

namespace Sys2Proof.Machine

/-- `resolve(src, s)`: the 8-bit value of the operand source, and the collaborator after the read it may
take. "`resolve` changes no core state" (40_step_and_operands.md R136). The address of an indirect operand
is the full 16-bit `HL = H ++ L`. -/
def resolve (src : ArithSource) (s : State) : Byte × Collaborator :=
  match src with
  | .reg x => (getReg x s, s.mem)
  | .immediate n => (n, s.mem)
  | .indirect => memRead s.mem (getPair .HL s)

end Sys2Proof.Machine
end

