-- ==== Sys2Proof/Machine/Add.lean ====
section
/-! DEFINITION. The Add family (spec 41_alu_add.md): the nine instructions with semantics. -/

namespace Sys2Proof.Machine

/-- `execute(Add(src), s)` (41_alu_add.md R150): all reads come before all writes, the writes are one
update, and the execution raises nothing but `OK`. -/
def executeAdd (src : ArithSource) (s : State) : Host.Outcome State Fault Refusal :=
  let operand := resolve src s
  .next (commit (addResult s.A operand.1) (addFlags s.A operand.1) (advancePC s.PC src.length) operand.2 s)

/-- `Add(Reg(B))` (41_alu_add.md R153). -/
def execAddRegB (s : State) : Host.Outcome State Fault Refusal := executeAdd (.reg .B) s

/-- `Add(Reg(C))` (41_alu_add.md R154). -/
def execAddRegC (s : State) : Host.Outcome State Fault Refusal := executeAdd (.reg .C) s

/-- `Add(Reg(D))` (41_alu_add.md R155). -/
def execAddRegD (s : State) : Host.Outcome State Fault Refusal := executeAdd (.reg .D) s

/-- `Add(Reg(E))` (41_alu_add.md R156). -/
def execAddRegE (s : State) : Host.Outcome State Fault Refusal := executeAdd (.reg .E) s

/-- `Add(Reg(H))` (41_alu_add.md R157). -/
def execAddRegH (s : State) : Host.Outcome State Fault Refusal := executeAdd (.reg .H) s

/-- `Add(Reg(L))` (41_alu_add.md R158). -/
def execAddRegL (s : State) : Host.Outcome State Fault Refusal := executeAdd (.reg .L) s

/-- `Add(Indirect)` (41_alu_add.md R159). -/
def execAddIndirect (s : State) : Host.Outcome State Fault Refusal := executeAdd .indirect s

/-- `Add(Reg(Acc))` (41_alu_add.md R160). -/
def execAddRegAcc (s : State) : Host.Outcome State Fault Refusal := executeAdd (.reg .Acc) s

/-- `Add(Immediate(n))` (41_alu_add.md R161). -/
def execAddImmediate (n : Byte) (s : State) : Host.Outcome State Fault Refusal :=
  executeAdd (.immediate n) s

end Sys2Proof.Machine
end

