-- ==== Sys2Proof/Machine/Unimplemented.lean ====
section
/-! DEFINITION. The 26 rows of the opcode table without semantics (spec 42_unimplemented.md). Each stops
with `Unimplemented(class, b0[, b1])` and the state unchanged: "It is a refusal: the core gives the byte
no meaning, the run stops there" (R187). -/

namespace Sys2Proof.Machine

/-- ALU-R with `op = 1` (42_unimplemented.md R183). -/
def execBlock2Op1 (r : BitVec 3) (s : State) : Host.Outcome State Fault Refusal :=
  stopUnimplemented .block2Op (opcodeByte 2 1 r) none s

/-- ALU-R with `op = 2` (42_unimplemented.md R183). -/
def execBlock2Op2 (r : BitVec 3) (s : State) : Host.Outcome State Fault Refusal :=
  stopUnimplemented .block2Op (opcodeByte 2 2 r) none s

/-- ALU-R with `op = 3` (42_unimplemented.md R183). -/
def execBlock2Op3 (r : BitVec 3) (s : State) : Host.Outcome State Fault Refusal :=
  stopUnimplemented .block2Op (opcodeByte 2 3 r) none s

/-- ALU-R with `op = 4` (42_unimplemented.md R183). -/
def execBlock2Op4 (r : BitVec 3) (s : State) : Host.Outcome State Fault Refusal :=
  stopUnimplemented .block2Op (opcodeByte 2 4 r) none s

/-- ALU-R with `op = 5` (42_unimplemented.md R183). -/
def execBlock2Op5 (r : BitVec 3) (s : State) : Host.Outcome State Fault Refusal :=
  stopUnimplemented .block2Op (opcodeByte 2 5 r) none s

/-- ALU-R with `op = 6` (42_unimplemented.md R183). -/
def execBlock2Op6 (r : BitVec 3) (s : State) : Host.Outcome State Fault Refusal :=
  stopUnimplemented .block2Op (opcodeByte 2 6 r) none s

/-- ALU-R with `op = 7` (42_unimplemented.md R183). -/
def execBlock2Op7 (r : BitVec 3) (s : State) : Host.Outcome State Fault Refusal :=
  stopUnimplemented .block2Op (opcodeByte 2 7 r) none s

/-- ALU-I with `op = 1` (42_unimplemented.md R184). -/
def execBlock3ImmOp1 (n : Byte) (s : State) : Host.Outcome State Fault Refusal :=
  stopUnimplemented .block3ImmOp 0xCE (some n) s

/-- ALU-I with `op = 2` (42_unimplemented.md R184). -/
def execBlock3ImmOp2 (n : Byte) (s : State) : Host.Outcome State Fault Refusal :=
  stopUnimplemented .block3ImmOp 0xD6 (some n) s

/-- ALU-I with `op = 3` (42_unimplemented.md R184). -/
def execBlock3ImmOp3 (n : Byte) (s : State) : Host.Outcome State Fault Refusal :=
  stopUnimplemented .block3ImmOp 0xDE (some n) s

/-- ALU-I with `op = 4` (42_unimplemented.md R184). -/
def execBlock3ImmOp4 (n : Byte) (s : State) : Host.Outcome State Fault Refusal :=
  stopUnimplemented .block3ImmOp 0xE6 (some n) s

/-- ALU-I with `op = 5` (42_unimplemented.md R184). -/
def execBlock3ImmOp5 (n : Byte) (s : State) : Host.Outcome State Fault Refusal :=
  stopUnimplemented .block3ImmOp 0xEE (some n) s

/-- ALU-I with `op = 6` (42_unimplemented.md R184). -/
def execBlock3ImmOp6 (n : Byte) (s : State) : Host.Outcome State Fault Refusal :=
  stopUnimplemented .block3ImmOp 0xF6 (some n) s

/-- ALU-I with `op = 7` (42_unimplemented.md R184). -/
def execBlock3ImmOp7 (n : Byte) (s : State) : Host.Outcome State Fault Refusal :=
  stopUnimplemented .block3ImmOp 0xFE (some n) s

/-- The escape 0xCB with its second byte (42_unimplemented.md R185). -/
def execPrefixed (sel : Byte) (s : State) : Host.Outcome State Fault Refusal :=
  stopUnimplemented .prefixed 0xCB (some sel) s

/-- Block 0 (42_unimplemented.md R181): "a model must not execute 0x00 as a no-op"
(93_implementation_defined.md U3). -/
def execBlock0 (b0 : Byte) (s : State) : Host.Outcome State Fault Refusal :=
  stopUnimplemented .block0 b0 none s

/-- Block 1 (42_unimplemented.md R182). -/
def execBlock1 (b0 : Byte) (s : State) : Host.Outcome State Fault Refusal :=
  stopUnimplemented .block1 b0 none s

/-- Block 3, `r = 0` (42_unimplemented.md R186). -/
def execBlock3OtherR0 (b0 : Byte) (s : State) : Host.Outcome State Fault Refusal :=
  stopUnimplemented .block3Other b0 none s

/-- Block 3, `r = 1` (42_unimplemented.md R186). -/
def execBlock3OtherR1 (b0 : Byte) (s : State) : Host.Outcome State Fault Refusal :=
  stopUnimplemented .block3Other b0 none s

/-- Block 3, `r = 2` (42_unimplemented.md R186). -/
def execBlock3OtherR2 (b0 : Byte) (s : State) : Host.Outcome State Fault Refusal :=
  stopUnimplemented .block3Other b0 none s

/-- Block 3, `r = 4` (42_unimplemented.md R186). -/
def execBlock3OtherR4 (b0 : Byte) (s : State) : Host.Outcome State Fault Refusal :=
  stopUnimplemented .block3Other b0 none s

/-- Block 3, `r = 5` (42_unimplemented.md R186). -/
def execBlock3OtherR5 (b0 : Byte) (s : State) : Host.Outcome State Fault Refusal :=
  stopUnimplemented .block3Other b0 none s

/-- Block 3, `r = 7` (42_unimplemented.md R186). -/
def execBlock3OtherR7 (b0 : Byte) (s : State) : Host.Outcome State Fault Refusal :=
  stopUnimplemented .block3Other b0 none s

/-- Block 3, `r = 3`, `op = 0`: the byte 0xC3 (42_unimplemented.md R186). -/
def execBlock3OtherR3Op0 (s : State) : Host.Outcome State Fault Refusal :=
  stopUnimplemented .block3Other 0xC3 none s

/-- Block 3, `r = 3`, `op = 2` or `3` (42_unimplemented.md R186). -/
def execBlock3OtherR3Op2To3 (b0 : Byte) (s : State) : Host.Outcome State Fault Refusal :=
  stopUnimplemented .block3Other b0 none s

/-- Block 3, `r = 3`, `op = 4` to `7` (42_unimplemented.md R186). -/
def execBlock3OtherR3Op4To7 (b0 : Byte) (s : State) : Host.Outcome State Fault Refusal :=
  stopUnimplemented .block3Other b0 none s

end Sys2Proof.Machine
end

