-- ==== Sys2Proof/Machine/Dispatch.lean ====
section
/-! DEFINITION. `exec`: one arm per constructor of `Instr`, each one call of its meaning. -/

namespace Sys2Proof.Machine

def exec (i : Instr) (s : State) : Host.Outcome State Fault Refusal :=
  match i with
  | .addRegB => Sys2Proof.Machine.execAddRegB s
  | .addRegC => Sys2Proof.Machine.execAddRegC s
  | .addRegD => Sys2Proof.Machine.execAddRegD s
  | .addRegE => Sys2Proof.Machine.execAddRegE s
  | .addRegH => Sys2Proof.Machine.execAddRegH s
  | .addRegL => Sys2Proof.Machine.execAddRegL s
  | .addIndirect => Sys2Proof.Machine.execAddIndirect s
  | .addRegAcc => Sys2Proof.Machine.execAddRegAcc s
  | .addImmediate n => Sys2Proof.Machine.execAddImmediate n s
  | .block2Op1 r => Sys2Proof.Machine.execBlock2Op1 r s
  | .block2Op2 r => Sys2Proof.Machine.execBlock2Op2 r s
  | .block2Op3 r => Sys2Proof.Machine.execBlock2Op3 r s
  | .block2Op4 r => Sys2Proof.Machine.execBlock2Op4 r s
  | .block2Op5 r => Sys2Proof.Machine.execBlock2Op5 r s
  | .block2Op6 r => Sys2Proof.Machine.execBlock2Op6 r s
  | .block2Op7 r => Sys2Proof.Machine.execBlock2Op7 r s
  | .block3ImmOp1 n => Sys2Proof.Machine.execBlock3ImmOp1 n s
  | .block3ImmOp2 n => Sys2Proof.Machine.execBlock3ImmOp2 n s
  | .block3ImmOp3 n => Sys2Proof.Machine.execBlock3ImmOp3 n s
  | .block3ImmOp4 n => Sys2Proof.Machine.execBlock3ImmOp4 n s
  | .block3ImmOp5 n => Sys2Proof.Machine.execBlock3ImmOp5 n s
  | .block3ImmOp6 n => Sys2Proof.Machine.execBlock3ImmOp6 n s
  | .block3ImmOp7 n => Sys2Proof.Machine.execBlock3ImmOp7 n s
  | .prefixed sel => Sys2Proof.Machine.execPrefixed sel s
  | .block0 b0 => Sys2Proof.Machine.execBlock0 b0 s
  | .block1 b0 => Sys2Proof.Machine.execBlock1 b0 s
  | .block3OtherR0 b0 => Sys2Proof.Machine.execBlock3OtherR0 b0 s
  | .block3OtherR1 b0 => Sys2Proof.Machine.execBlock3OtherR1 b0 s
  | .block3OtherR2 b0 => Sys2Proof.Machine.execBlock3OtherR2 b0 s
  | .block3OtherR4 b0 => Sys2Proof.Machine.execBlock3OtherR4 b0 s
  | .block3OtherR5 b0 => Sys2Proof.Machine.execBlock3OtherR5 b0 s
  | .block3OtherR7 b0 => Sys2Proof.Machine.execBlock3OtherR7 b0 s
  | .block3OtherR3Op0 => Sys2Proof.Machine.execBlock3OtherR3Op0 s
  | .block3OtherR3Op2To3 b0 => Sys2Proof.Machine.execBlock3OtherR3Op2To3 b0 s
  | .block3OtherR3Op4To7 b0 => Sys2Proof.Machine.execBlock3OtherR3Op4To7 b0 s

end Sys2Proof.Machine
end

