-- ==== Sys2Proof/Machine/Step.lean ====
section
/-! DEFINITION. The step (spec 40_step_and_operands.md R131), and placing an instruction where it fetches. -/

namespace Sys2Proof.Machine

/-- One step: fetch, decode, execute (40_step_and_operands.md R131). A window too short is
`DecodeInvalid`; a row without semantics stops in its arm of `exec`; in both cases the state is unchanged
(60_exceptions.md R203). -/
def step (s : State) : Host.Outcome State Fault Refusal :=
  match decode (fetchWindow s) with
  | none => .fault .decodeInvalid
  | some i => exec i s

/-- `s` with the instruction whose bits are `w` held at `PC`, so that the next step fetches and runs it
(notes/assumptions/11.md). -/
def State.withFetchWord (s : State) (nbits w : Nat) : State :=
  placeAtPC (tableBytes nbits w).1 (tableBytes nbits w).2 s

end Sys2Proof.Machine
end

