-- ==== Sys2Proof/Machine/HostPort.lean ====
section
/-! DEFINITION. What the outside does between steps: the host's state accessors (spec 10_state.md R36 to
R40) and the collaborator's changes of what it holds (spec 20_memory.md R78). -/

namespace Sys2Proof.Machine

/-- One accessor call, one transaction of the register-access port (10_state.md R36 to R40). There is no
`AF` accessor (R33). -/
inductive Access where
  | getReg (r : Reg8)
  | setReg (r : Reg8) (v : Byte)
  | getPair (p : Pair)
  | setPair (p : Pair) (v : Word)
  | getSP
  | setSP (v : Word)
  | getPC
  | setPC (v : Word)
  | getF
  | setF (b : Byte)
  | clearF
  | getFlag (x : FlagName)
  | setFlag (x : FlagName) (t : Bool)
  | clearFlag (x : FlagName)
  deriving DecidableEq, Repr

/-- What an accessor call returns. -/
inductive Answer where
  | done
  | byte (v : Byte)
  | word (v : Word)
  | bit (t : Bool)
  deriving DecidableEq, Repr

/-- The value an accessor call returns; total (10_state.md section 6: "No error paths"). -/
def accessAnswer (q : Access) (s : State) : Answer :=
  match q with
  | .getReg r => .byte (getReg r s)
  | .getPair p => .word (getPair p s)
  | .getSP => .word s.SP
  | .getPC => .word s.PC
  | .getF => .byte s.F.toByte
  | .getFlag x => .bit (s.F.get x)
  | .setReg _ _ => .done
  | .setPair _ _ => .done
  | .setSP _ => .done
  | .setPC _ => .done
  | .setF _ => .done
  | .clearF => .done
  | .setFlag _ _ => .done
  | .clearFlag _ => .done

/-- The state after an accessor call; a get changes nothing (10_state.md R36 to R40). -/
def accessState (q : Access) (s : State) : State :=
  match q with
  | .setReg r v => setReg r v s
  | .setPair p v => setPair p v s
  | .setSP v => setSP v s
  | .setPC v => setPC v s
  | .setF b => setF (Flags.ofByte b) s
  | .clearF => setF Flags.zero s
  | .setFlag x t => setF (s.F.set x t) s
  | .clearFlag x => setF (s.F.set x false) s
  | .getReg _ => s
  | .getPair _ => s
  | .getSP => s
  | .getPC => s
  | .getF => s
  | .getFlag _ => s

/-- A change inside the collaborator between steps (20_memory.md R74, R78): it holds a byte at an address
from now on, it holds none there from now on, it has one more answer ready for a data read, or it answers
data reads of what it does not hold in this way from now on. -/
inductive CollabChange where
  | hold (a : Word) (b : Byte)
  | vacate (a : Word)
  | ready (b : Byte)
  | answerUnheld (x : Option Byte)
  deriving DecidableEq, Repr

/-- The collaborator after a change of its own. -/
def collabAfter (c : CollabChange) (m : Collaborator) : Collaborator :=
  match c with
  | .hold a b => { m with cells := Memory.put m.cells a.toNat b }
  | .vacate a => { m with cells := Memory.drop m.cells a.toNat }
  | .ready b => { m with replies := m.replies ++ [b] }
  | .answerUnheld x => { m with unheld := x }

end Sys2Proof.Machine
end

