-- ==== Sys2Proof/Machine/Session.lean ====
section
/-! DEFINITION. A run of the core together with its environment: a finite list of turns, each a step
request, an accessor call or a change inside the collaborator, one after another and never inside one
another (spec 10_state.md R41, 70_reset_and_hazards.md R247, R250). -/

namespace Sys2Proof.Machine

/-- One turn of the session (70_reset_and_hazards.md R247, the table of interactions). -/
inductive Turn where
  | step
  | access (q : Access)
  | collab (c : CollabChange)
  deriving DecidableEq, Repr

/-- The state an outcome leaves: "A non-OK outcome changes nothing in the core" (60_exceptions.md R203). -/
def stateAfter (s : State) (o : Host.Outcome State Fault Refusal) : State :=
  match o with
  | .next t => t
  | .fault _ => s
  | .refused _ => s

/-- One turn. After a non-OK outcome the host may go on, the state being what it was (60_exceptions.md
R206). -/
def turn (t : Turn) (s : State) : State :=
  match t with
  | .step => stateAfter s (step s)
  | .access q => accessState q s
  | .collab c => setMem (collabAfter c s.mem) s

/-- A session: the turns in order. -/
def session (ts : List Turn) (s : State) : State :=
  match ts with
  | [] => s
  | t :: rest => session rest (turn t s)

end Sys2Proof.Machine
end

