-- ==== Sys2Proof/Safety.lean ====
section
/-! DEFINITION. What counts as a safe run: the invariant, the outcomes the spec allows, and the states a
run of OK steps or a session reaches. -/

namespace Sys2Proof.Machine

/-- The invariant of the model: the collaborator's memory is in canonical form, and the flags byte's low
nibble reads zero (10_state.md R30, "in every reachable state"). -/
abbrev StateInv (s : State) : Prop := Memory.wf s.mem.cells ∧ s.F.toByte.extractLsb' 0 4 = 0#4

/-- The three outcomes of 60_exceptions.md R200: `OK`, `DecodeInvalid`, `Unimplemented(class, b0[, b1])`. -/
def SpecOutcome (o : Host.Outcome State Fault Refusal) : Prop :=
  (∃ t, o = .next t) ∨ o = .fault .decodeInvalid ∨ ∃ c b0 b1, o = .refused (.unimplemented c b0 b1)

/-- `t` is the state after `n` steps from `s`, all of them OK (70_reset_and_hazards.md R250). -/
def RunsOk (n : Nat) (s t : State) : Prop := Sys2Proof.core.run n s = .next t

/-- `t` is reached in some session that starts at reset (70_reset_and_hazards.md R240, R247). -/
def Reachable (t : State) : Prop := ∃ ts, session ts State.reset = t

end Sys2Proof.Machine
end

