-- ==== Sys2Proof/Certificates/Slice0/Obligations.lean ====
section
/-! DEFINITION. The statements for the provers. Helpers first: the spec's formulas written out over natural
numbers, apart from the definitions the model computes with. -/

open Sys2Proof Sys2Proof.Machine

/-! ## Helpers -/

/-- The four flags after Add of `a` and `v`, as 41_alu_add.md R151 restates them: "Zero flag set iff result
is 0; Carry flag set iff `a+b > 255`; Half-Carry flag set iff `(result & 0xF) < (b & 0xF)`; Subtract flag
always clear." -/
def Sys2Proof.Claims.flagsOfAdd (a v : Byte) : Flags where
  Z := decide ((a.toNat + v.toNat) % 256 = 0)
  N := false
  H := decide ((a.toNat + v.toNat) % 256 % 16 < v.toNat % 16)
  C := decide (255 < a.toNat + v.toNat)

/-- The state 41_alu_add.md R150 gives after Add of the operand value `v` by an instruction of `len` bytes,
`m` being the collaborator after the operand read. All other fields are those of `s`. The reduction of `PC`
modulo 2^16 is the spec's own decision D1 (10_state.md R27; notes/assumptions/1.md). -/
def Sys2Proof.Claims.afterAdd (v : Byte) (len : Nat) (m : Collaborator) (s : State) : State :=
  { s with
    A := BitVec.ofNat 8 ((s.A.toNat + v.toNat) % 256)
    F := Claims.flagsOfAdd s.A v
    PC := BitVec.ofNat 16 ((s.PC.toNat + len) % 65536)
    mem := m }

/-- The instruction `i` adds the operand value `v s` to `A` and recomputes all four flags from the two
operands alone (41_alu_add.md R151). -/
def Sys2Proof.Claims.AddsToAccumulator (i : Instr) (v : State → Byte) : Prop :=
  ∀ s, ∃ t, exec i s = .next t ∧
    t.A = BitVec.ofNat 8 ((s.A.toNat + (v s).toNat) % 256) ∧
    t.F = Claims.flagsOfAdd s.A (v s) ∧
    t.F.toByte.toNat % 16 = 0 ∧
    ∀ f, exec i (setF f s) = .next t

/-- The instruction `i`, the single byte `b0`, is Add of a register whose value is `v s`: its encoding, its
whole effect, and its one read. -/
def Sys2Proof.Claims.RegisterAdd (i : Instr) (b0 : Byte) (v : State → Byte) : Prop :=
  (∀ rest, decode (b0 :: rest) = some i) ∧ encode i = [b0] ∧
  (∀ s, exec i s = .next (Claims.afterAdd (v s) 1 s.mem s)) ∧
  ∀ s, fetch s.mem s.PC = some b0 →
    step s = .next (Claims.afterAdd (v s) 1 s.mem s) ∧ stepReads s = [.fetch s.PC]

/-- The operand source of the register code `r`, from the table of 30_encoding.md R95. -/
def Sys2Proof.Claims.codeTable : List ArithSource :=
  [.reg .B, .reg .C, .reg .D, .reg .E, .reg .H, .reg .L, .indirect, .reg .Acc]

/-- `decode(w)` of 30_encoding.md R104, line by line, over natural numbers. -/
def Sys2Proof.Claims.specDecode (w : List Byte) : DecodeResult :=
  match w with
  | [] => .invalid
  | b0 :: rest =>
    let blk := b0.toNat / 64
    let op := b0.toNat / 8 % 8
    let r := b0.toNat % 8
    if b0.toNat = 0xCB then
      match rest with
      | [] => .invalid
      | b1 :: _ => .unimplemented .prefixed b0 (some b1)
    else if blk = 0 then .unimplemented .block0 b0 none
    else if blk = 1 then .unimplemented .block1 b0 none
    else if blk = 2 then
      if op = 0 then .ok (addOf ((Claims.codeTable[r]?).getD .indirect)) 1
      else .unimplemented .block2Op b0 none
    else if r = 6 then
      match rest with
      | [] => .invalid
      | b1 :: _ =>
        if op = 0 then .ok (addOf (.immediate b1)) 2 else .unimplemented .block3ImmOp b0 (some b1)
    else .unimplemented .block3Other b0 none

/-- The leading bytes of a class without semantics (60_exceptions.md R202). -/
def Sys2Proof.Claims.InClass (c : UnimplClass) (n : Nat) : Prop :=
  match c with
  | .block0 => n ≤ 0x3F
  | .block1 => 0x40 ≤ n ∧ n ≤ 0x7F
  | .block2Op => 0x88 ≤ n ∧ n ≤ 0xBF
  | .block3ImmOp => n ∈ [0xCE, 0xD6, 0xDE, 0xE6, 0xEE, 0xF6, 0xFE]
  | .prefixed => n = 0xCB
  | .block3Other => 0xC0 ≤ n ∧ n ≤ 0xFF ∧ n % 8 ≠ 6 ∧ n ≠ 0xCB

/-- The first byte belongs to a format known to be two bytes long: 0xCB, or bits 7 to 6 equal to 0b11 and
bits 2 to 0 equal to 0b110 (20_memory.md R75). -/
def Sys2Proof.Claims.TwoByteFormat (n : Nat) : Prop := n = 0xCB ∨ (n / 64 = 3 ∧ n % 8 = 6)

/-- The second byte of the fetch window is absent: past 0xFFFF (20_memory.md R63), or not held. -/
def Sys2Proof.Claims.SecondAbsent (s : State) : Prop :=
  s.PC = 0xFFFF ∨ fetch s.mem (s.PC + 1) = none

/-- An outcome with the collaborator left out: what the core itself shows. -/
def Sys2Proof.Claims.coreOutcome (o : Host.Outcome State Fault Refusal) : Host.Outcome State Fault Refusal :=
  match o with
  | .next t => .next (setMem Collaborator.empty t)
  | .fault r => .fault r
  | .refused r => .refused r

/-- The same turn, with bits 3 to 0 cleared in a byte it writes to `F`. -/
def Sys2Proof.Claims.clearLowFlagBits (x : Turn) : Turn :=
  match x with
  | .access (.setF b) => .access (.setF (BitVec.ofNat 8 (b.toNat / 16 * 16)))
  | x => x

/-! ## Reset and state -/

/-- 10_state.md R42. -/
def Obligations.ResetLeavesEveryRegisterZero : Prop :=
  (∀ r, getReg r State.reset = 0x00) ∧ State.reset.F.toByte = 0x00 ∧ State.reset.SP = 0x0000 ∧
  State.reset.PC = 0x0000 ∧ (∀ p, getPair p State.reset = 0x0000) ∧
  ∀ m, (stepReads (setMem m State.reset)).head? = some (.fetch 0x0000)

/-- 70_reset_and_hazards.md R242, for every collaborator; the empty window is decision D3 of the spec. -/
def Obligations.FirstStepFetchesAtResetOrSetPC : Prop :=
  ∀ (m : Collaborator) (v : Word),
    (fetch m 0x0000 = none → step (setMem m State.reset) = .fault .decodeInvalid) ∧
    (stepReads (setMem m State.reset)).head? = some (.fetch 0x0000) ∧
    (stepReads (accessState (.setPC v) (setMem m State.reset))).head? = some (.fetch v)

/-- The invariant of Safety.lean holds at reset. The empty memory is the model's choice
(notes/assumptions/5.md). -/
def Obligations.ResetMeetsInvariant : Prop := StateInv State.reset

/-- 70_reset_and_hazards.md R240: writing zeros through the accessors "has the same effect on the state"
as reset, the collaborator staying as it is. -/
def Obligations.ZeroingByAccessorsIsReset : Prop :=
  ∀ s, session
    [.access (.setReg .Acc 0), .access (.setPair .BC 0), .access (.setPair .DE 0), .access (.setPair .HL 0),
     .access .clearF, .access (.setSP 0), .access (.setPC 0)] s = setMem s.mem State.reset

/-- 10_state.md R21, R22, R23 and R37. -/
def Obligations.PairViewsSplitAndJoin : Prop :=
  (∀ s, (getPair .BC s).toNat = s.B.toNat * 256 + s.C.toNat ∧
        (getPair .DE s).toNat = s.D.toNat * 256 + s.E.toNat ∧
        (getPair .HL s).toNat = s.H.toNat * 256 + s.L.toNat) ∧
  (∀ (v : Word) s,
    setPair .BC v s = { s with B := BitVec.ofNat 8 (v.toNat / 256), C := BitVec.ofNat 8 (v.toNat % 256) } ∧
    setPair .DE v s = { s with D := BitVec.ofNat 8 (v.toNat / 256), E := BitVec.ofNat 8 (v.toNat % 256) } ∧
    setPair .HL v s = { s with H := BitVec.ofNat 8 (v.toNat / 256), L := BitVec.ofNat 8 (v.toNat % 256) }) ∧
  (∀ p (v : Word) s, getPair p (setPair p v s) = v) ∧
  (∀ p q (v : Word) s, q ≠ p → getPair q (setPair p v s) = getPair q s) ∧
  (∀ p (h l : Byte) s,
    getPair p (setReg p.lo l (setReg p.hi h s)) = h ++ l ∧
    getPair p (setReg p.hi h (setReg p.lo l s)) = h ++ l) ∧
  (∀ p (v : Byte) s, getPair p (setReg .Acc v s) = getPair p s) ∧
  (∀ p (v : Word) s, accessAnswer (.getPair p) s = .word (getPair p s) ∧ accessState (.getPair p) s = s ∧
    accessState (.setPair p v) s = setPair p v s)

/-- 10_state.md R36. -/
def Obligations.RegisterAccessorsAreIndependent : Prop :=
  ∀ (r q : Reg8) (v : Byte) (s : State),
    accessAnswer (.getReg r) s = .byte (getReg r s) ∧ accessState (.getReg r) s = s ∧
    accessAnswer (.getReg r) (accessState (.setReg r v) s) = .byte v ∧
    (q ≠ r → accessAnswer (.getReg q) (accessState (.setReg r v) s) = accessAnswer (.getReg q) s) ∧
    (accessState (.setReg r v) s).F = s.F ∧ (accessState (.setReg r v) s).SP = s.SP ∧
    (accessState (.setReg r v) s).PC = s.PC ∧ (accessState (.setReg r v) s).mem = s.mem

/-- 10_state.md R38: every 16-bit value is legal in `SP` and `PC`. That they have accessors is the spec's
decision D25. -/
def Obligations.CounterAccessorsAreTotal : Prop :=
  ∀ (v : Word) (s : State),
    accessAnswer .getSP (accessState (.setSP v) s) = .word v ∧ accessState (.setSP s.SP) (accessState (.setSP v) s) = s ∧
    accessAnswer .getPC (accessState (.setPC v) s) = .word v ∧ accessState (.setPC s.PC) (accessState (.setPC v) s) = s ∧
    accessState .getSP s = s ∧ accessState .getPC s = s

/-- 10_state.md R29: the fixed positions, the sixteen legal values, which bits take a write, and reset. -/
def Obligations.FlagPositionsInTheByte : Prop :=
  (∀ (f : Flags) (k : Nat), f.toByte.getLsbD k =
    if k = 7 then f.Z else if k = 6 then f.N else if k = 5 then f.H else if k = 4 then f.C else false) ∧
  (∀ b : Byte, (∃ f : Flags, f.toByte = b) ↔ b.toNat % 16 = 0) ∧
  (∀ (b : Byte) (s : State) (k : Nat), (accessState (.setF b) s).F.toByte.getLsbD k =
    if k < 4 then false else b.getLsbD k) ∧
  State.reset.F.toByte = 0x00

/-- 10_state.md R39. -/
def Obligations.FlagsByteSetterStoresTopNibble : Prop :=
  ∀ (b : Byte) (s : State),
    (accessState (.setF b) s).F.toByte.toNat = b.toNat / 16 * 16 ∧
    (accessState .clearF s).F.toByte = 0x00 ∧
    setF s.F (accessState (.setF b) s) = s ∧ setF s.F (accessState .clearF s) = s ∧
    (accessState (.setF 0xFF) s).F.toByte = 0xF0 ∧ (accessState (.setF 0x0F) s).F.toByte = 0x00 ∧
    (accessState (.setF 0xB7) s).F.toByte = 0xB0

/-- 10_state.md R40, per flag; the byte getter is the spec's decision D13. -/
def Obligations.FlagAccessorsTouchOneBit : Prop :=
  ∀ (x : FlagName) (t : Bool) (s : State) (k : Nat),
    accessAnswer (.getFlag x) s = .bit (s.F.toByte.getLsbD x.bit) ∧
    (accessState (.setFlag x t) s).F.toByte.getLsbD k =
      (if k = x.bit then t else s.F.toByte.getLsbD k) ∧
    (accessState (.clearFlag x) s).F.toByte.getLsbD k =
      (if k = x.bit then false else s.F.toByte.getLsbD k) ∧
    setF s.F (accessState (.setFlag x t) s) = s ∧ setF s.F (accessState (.clearFlag x) s) = s

/-! ## Encoding -/

/-- Words written out from the spec's encodings (95_test_vectors.md 2.2). -/
def Obligations.SampleWordsDecodeAsTheSpecSays : Prop :=
  decodeResult [] = .invalid ∧
  decodeResult [0b10000000] = .ok .addRegB 1 ∧ decodeResult [0b10000110] = .ok .addIndirect 1 ∧
  decodeResult [0b10000111, 0xFF] = .ok .addRegAcc 1 ∧ decodeResult [0b11000110] = .invalid ∧
  decodeResult [0b11000110, 0x01] = .ok (.addImmediate 0x01) 2 ∧
  decodeResult [0b10001000] = .unimplemented .block2Op 0x88 none ∧
  decodeResult [0b11001110, 0x05] = .unimplemented .block3ImmOp 0xCE (some 0x05) ∧
  decodeResult [0b11001011] = .invalid ∧
  decodeResult [0b11001011, 0x37] = .unimplemented .prefixed 0xCB (some 0x37) ∧
  decodeResult [0b00000000] = .unimplemented .block0 0x00 none ∧
  decodeResult [0b01110110] = .unimplemented .block1 0x76 none ∧
  decodeResult [0b11000011] = .unimplemented .block3Other 0xC3 none

/-- 30_encoding.md R91. -/
def Obligations.OpcodeByteSplitsIntoThreeFields : Prop :=
  ∀ b0 : Byte, (blkOf b0).toNat = b0.toNat / 64 ∧ (opOf b0).toNat = b0.toNat / 8 % 8 ∧
    (rOf b0).toNat = b0.toNat % 8 ∧ opcodeByte (blkOf b0) (opOf b0) (rOf b0) = b0

/-- 30_encoding.md R95: one table for every opcode. -/
def Obligations.RegisterCodeTableIsShared : Prop :=
  (∀ b0 : Byte, some (fromOpcode b0) = Claims.codeTable[b0.toNat % 8]?) ∧
  ∀ (b0 : Byte) (rest : List Byte), 0x80 ≤ b0.toNat → b0.toNat ≤ 0x87 →
    (decode (b0 :: rest)).bind Instr.source? = Claims.codeTable[b0.toNat % 8]?

/-- 30_encoding.md R96: format ALU-R, one byte whatever follows. -/
def Obligations.AluRegisterFormatIsOneByte : Prop :=
  (∀ b0 : Byte, blkOf b0 = 2 ↔ 0x80 ≤ b0.toNat ∧ b0.toNat ≤ 0xBF) ∧
  ∀ (b0 : Byte) (rest : List Byte), blkOf b0 = 2 →
    decodeResult (b0 :: rest) = decodeResult [b0] ∧ decodeResult [b0] ≠ .invalid ∧
    (opOf b0 = 0 ↔ b0.toNat ≤ 0x87) ∧
    (opOf b0 = 0 → decodeResult [b0] = .ok (addOf (fromOpcode b0)) 1) ∧
    (opOf b0 ≠ 0 → ∀ i n, decodeResult [b0] ≠ .ok i n)

/-- 30_encoding.md R97: format ALU-I, two bytes, the immediate as it stands. -/
def Obligations.AluImmediateFormatIsTwoBytes : Prop :=
  (∀ b0 : Byte, (blkOf b0 = 3 ∧ rOf b0 = 6) ↔
    b0.toNat ∈ [0xC6, 0xCE, 0xD6, 0xDE, 0xE6, 0xEE, 0xF6, 0xFE]) ∧
  (∀ b0 : Byte, blkOf b0 = 3 → rOf b0 = 6 → decodeResult [b0] = .invalid ∧ (opOf b0 = 0 ↔ b0 = 0xC6)) ∧
  (∀ (b0 n : Byte) (rest : List Byte), blkOf b0 = 3 → rOf b0 = 6 →
    decodeResult (b0 :: n :: rest) = decodeResult [b0, n] ∧ decodeResult [b0, n] ≠ .invalid ∧
    (opOf b0 = 0 → decodeResult [b0, n] = .ok (addOf (fromLiteral n)) 2 ∧ fromLiteral n = .immediate n) ∧
    (opOf b0 ≠ 0 → ∀ i k, decodeResult [b0, n] ≠ .ok i k))

/-- 30_encoding.md R94: classification is total; nine bytes with semantics, 247 without. -/
def Obligations.EveryLeadingByteIsClassified : Prop :=
  opcodeTable.length = 35 ∧
  (∀ b0 b1 : Byte, ∃ i, decode [b0, b1] = some i ∧ rowsOf b0 = [i.row]) ∧
  (∀ b0 b1 : Byte,
    ((∃ i n, decodeResult [b0, b1] = .ok i n) ↔ (0x80 ≤ b0.toNat ∧ b0.toNat ≤ 0x87) ∨ b0.toNat = 0xC6) ∧
    ((∃ c x y, decodeResult [b0, b1] = .unimplemented c x y) ↔
      ¬((0x80 ≤ b0.toNat ∧ b0.toNat ≤ 0x87) ∨ b0.toNat = 0xC6)))

/-- The decoder the machine runs and the pseudocode of 30_encoding.md R104 are one function. The Invalid
arms for an empty window and for 0xCB, the order of the two checks and the Unimplemented results are the
spec's own decisions D3 to D7. -/
def Obligations.DecoderIsTheSpecsPseudocode : Prop := ∀ w, decodeResult w = Claims.specDecode w

/-- Decode and encode agree, both ways, for every instruction: no bit of an encoding is dropped, and a
window decodes to an instruction only if it begins with that instruction's bytes. -/
def Obligations.DecodeInvertsEncode : Prop :=
  ∀ (w : List Byte) (i : Instr), decode w = some i ↔ i.wf = true ∧ ∃ rest, w = encode i ++ rest

/-! ## The step -/

/-- A step runs the decoded instruction (40_step_and_operands.md R131): the byte at `PC`, and the byte at
`PC + 1` when the format needs it. -/
def Obligations.StepRunsTheDecodedInstruction : Prop :=
  ∀ (s : State) (b0 : Byte), fetch s.mem s.PC = some b0 →
    (¬ Claims.TwoByteFormat b0.toNat → ∀ i, decode [b0] = some i → step s = exec i s) ∧
    (Claims.TwoByteFormat b0.toNat → s.PC ≠ 0xFFFF → ∀ b1, fetch s.mem (s.PC + 1) = some b1 →
      ∀ i, decode [b0, b1] = some i → step s = exec i s)

/-- The instruction `withFetchWord` places is the one the next step runs, and nothing else changes. Where
`PC = 0xFFFF` no second byte can be placed (20_memory.md R63; notes/assumptions/11.md): there the first
byte alone is what the step decodes. -/
def Obligations.PlacedInstructionRunsNext : Prop :=
  ∀ (s : State) (nbits w : Nat),
    (s.PC ≠ 0xFFFF → ∀ i, decodeTableWord nbits w = some i →
      step (s.withFetchWord nbits w) = exec i (s.withFetchWord nbits w)) ∧
    (s.PC = 0xFFFF → ∀ i, decode [BitVec.ofNat 8 (w % 2 ^ nbits)] = some i →
      step (s.withFetchWord nbits w) = exec i (s.withFetchWord nbits w)) ∧
    setMem s.mem (s.withFetchWord nbits w) = s ∧
    (s.withFetchWord nbits w).mem.replies = s.mem.replies ∧
    (s.withFetchWord nbits w).mem.freeIndex = s.mem.freeIndex ∧
    (s.withFetchWord nbits w).mem.unheld = s.mem.unheld ∧
    (∀ a, a ≠ s.PC → a ≠ s.PC + 1 → fetch (s.withFetchWord nbits w).mem a = fetch s.mem a) ∧
    (s.PC = 0xFFFF → ∀ a, a ≠ s.PC → fetch (s.withFetchWord nbits w).mem a = fetch s.mem a)

/-- 60_exceptions.md R200: exactly one of three outcomes, which one by the decode result of the fetch window,
and what each leaves of the state. -/
def Obligations.StepEndsInOneOfThreeOutcomes : Prop :=
  ∀ s, SpecOutcome (step s) ∧
    (∀ i n, decodeResult (fetchWindow s) = .ok i n →
      ∃ t, step s = .next t ∧ exec i s = .next t ∧ turn .step s = t ∧
        t = { s with A := t.A, F := t.F, PC := t.PC, mem := t.mem }) ∧
    (decodeResult (fetchWindow s) = .invalid → step s = .fault .decodeInvalid ∧ turn .step s = s) ∧
    ∀ c b0 b1, decodeResult (fetchWindow s) = .unimplemented c b0 b1 →
      step s = .refused (.unimplemented c b0 b1) ∧ turn .step s = s

/-- 60_exceptions.md R201 with the priority of R209, exactly when a step reports `DecodeInvalid`. The causes
INV-EMPTY and INV-PFX are the spec's own decisions D3 and D6, the priority D5. -/
def Obligations.DecodeInvalidExactlyWhenAByteIsAbsent : Prop :=
  ∀ s, (∃ r, step s = .fault r) ↔
    fetch s.mem s.PC = none ∨
    ∃ b0, fetch s.mem s.PC = some b0 ∧ Claims.TwoByteFormat b0.toNat ∧ Claims.SecondAbsent s

/-- 60_exceptions.md R202 with the priority of R209, exactly when a step reports `Unimplemented` and what it
reports. The outcome's name and its classes are the spec's own decision D4. -/
def Obligations.UnimplementedExactlyByClass : Prop :=
  ∀ (s : State) (c : UnimplClass) (b0 : Byte) (b1 : Option Byte),
    step s = .refused (.unimplemented c b0 b1) ↔
      fetch s.mem s.PC = some b0 ∧ Claims.InClass c b0.toNat ∧
      (if c = .block3ImmOp ∨ c = .prefixed then
        s.PC ≠ 0xFFFF ∧ b1 = fetch s.mem (s.PC + 1) ∧ b1 ≠ none
      else b1 = none)

/-- 00_scope.md R4 at the step: exactly when a step is OK. -/
def Obligations.OkExactlyForTheAddOpcodes : Prop :=
  ∀ s, (∃ t, step s = .next t) ↔
    ∃ b0, fetch s.mem s.PC = some b0 ∧
      ((0x80 ≤ b0.toNat ∧ b0.toNat ≤ 0x87) ∨
       (b0.toNat = 0xC6 ∧ s.PC ≠ 0xFFFF ∧ fetch s.mem (s.PC + 1) ≠ none))

/-- 20_memory.md R63: the fetch window does not wrap. The spec's own decision D2 (notes/assumptions/2.md). -/
def Obligations.FetchWindowStopsAtTheTop : Prop :=
  ∀ (s : State) (b0 : Byte), s.PC = 0xFFFF → fetch s.mem 0xFFFF = some b0 → Claims.TwoByteFormat b0.toNat →
    step s = .fault .decodeInvalid ∧ stepReads s = [.fetch 0xFFFF]

/-- 20_memory.md R75: the reads of one step, all of them and in order. The spec's own decision D8. -/
def Obligations.StepReadsInOrder : Prop :=
  ∀ s : State,
    (fetch s.mem s.PC = none → stepReads s = [.fetch s.PC]) ∧
    ∀ b0, fetch s.mem s.PC = some b0 →
      (Claims.TwoByteFormat b0.toNat → s.PC ≠ 0xFFFF → stepReads s = [.fetch s.PC, .fetch (s.PC + 1)]) ∧
      (Claims.TwoByteFormat b0.toNat → s.PC = 0xFFFF → stepReads s = [.fetch s.PC]) ∧
      (b0 = 0x86 → stepReads s = [.fetch s.PC, .data (s.H ++ s.L)]) ∧
      (¬ Claims.TwoByteFormat b0.toNat → b0 ≠ 0x86 → stepReads s = [.fetch s.PC])

/-- Two collaborators that give the reads of a step the same answers give the step the same outcome and the core
the same state after it, whatever else they hold; at most two fetch reads and one data read (00_scope.md R6).
That the fetches come before the data read is the spec's own decision D8 (20_memory.md R75;
notes/assumptions/8.md). -/
def Obligations.StepDependsOnlyOnWhatItReads : Prop :=
  (∀ (s : State) (m1 m2 : Collaborator),
    (∀ a, PortRead.fetch a ∈ stepReads (setMem m1 s) → fetch m1 a = fetch m2 a) →
    (∀ a, PortRead.data a ∈ stepReads (setMem m1 s) → (memRead m1 a).1 = (memRead m2 a).1) →
    stepReads (setMem m2 s) = stepReads (setMem m1 s) ∧
    Claims.coreOutcome (step (setMem m2 s)) = Claims.coreOutcome (step (setMem m1 s))) ∧
  ∀ s : State, ∃ fs ds, stepReads s = fs ++ ds ∧ fs.length ≤ 2 ∧ ds.length ≤ 1 ∧
    (∀ x ∈ fs, ∃ a, x = .fetch a) ∧ ∀ x ∈ ds, ∃ a, x = .data a

/-- 60_exceptions.md R206 with 40_step_and_operands.md R138. A non-OK outcome is a matter of `PC` and the bytes
fetched alone: it comes again in every state that agrees on these, whatever the registers, the flags and the
data port hold, and any number of such steps changes nothing. It leaves no mark: "after the host moves `PC` or
the collaborator supplies more bytes, the step proceeds normally". The spec's own decision D22; how the
collaborator supplies a byte is notes/assumptions/10.md. -/
def Obligations.NonOkStepRepeats : Prop :=
  ∀ s, (∀ t, step s ≠ .next t) →
    (∀ u : State, u.PC = s.PC → (∀ a, PortRead.fetch a ∈ stepReads s → fetch u.mem a = fetch s.mem a) →
      step u = step s ∧ stepReads u = stepReads s ∧ ∀ n, session (List.replicate n .step) u = u) ∧
    (∀ (v : Word) (src : ArithSource), fetch s.mem v = (encode (addOf src)).head? →
      (∀ n, src = .immediate n → v ≠ 0xFFFF ∧ fetch s.mem (v + 1) = some n) →
      ∃ t, step (session [.step, .access (.setPC v)] s) = .next t ∧
        exec (addOf src) (setPC v s) = .next t) ∧
    (fetch s.mem s.PC = none → ∀ (b0 : Byte) (i : Instr), decode [b0] = some i →
      step (session [.step, .collab (.hold s.PC b0)] s) = exec i (turn (.collab (.hold s.PC b0)) s)) ∧
    (∀ b0, fetch s.mem s.PC = some b0 → fetch s.mem (s.PC + 1) = none → s.PC ≠ 0xFFFF →
      ∀ (b1 : Byte) (i : Instr), Claims.TwoByteFormat b0.toNat → decode [b0, b1] = some i →
      step (session [.step, .collab (.hold (s.PC + 1) b1)] s) =
        exec i (turn (.collab (.hold (s.PC + 1) b1)) s))

/-! ## Add -/

/-- 40_step_and_operands.md R136: the three cases of the resolver; an indirect operand is one data read at
`HL`, no other source reads. -/
def Obligations.ResolverReadsItsSource : Prop :=
  (∀ (x : Reg8) (s : State), resolve (.reg x) s = (getReg x s, s.mem)) ∧
  (∀ s : State, getReg .B s = s.B ∧ getReg .C s = s.C ∧ getReg .D s = s.D ∧ getReg .E s = s.E ∧
    getReg .H s = s.H ∧ getReg .L s = s.L ∧ getReg .Acc s = s.A) ∧
  (∀ (n : Byte) (s : State), resolve (.immediate n) s = (n, s.mem)) ∧
  (∀ s : State, resolve .indirect s = memRead s.mem (BitVec.ofNat 16 (s.H.toNat * 256 + s.L.toNat))) ∧
  ∀ s : State, fetch s.mem s.PC = some 0x86 →
    dataReads s = [.data (BitVec.ofNat 16 (s.H.toNat * 256 + s.L.toNat))] ∧
    step s = exec .addIndirect s

/-- 41_alu_add.md R151, for each of the nine instructions. -/
def Obligations.AddRecomputesAccumulatorAndAllFlags : Prop :=
  Claims.AddsToAccumulator .addRegB (fun s => s.B) ∧ Claims.AddsToAccumulator .addRegC (fun s => s.C) ∧
  Claims.AddsToAccumulator .addRegD (fun s => s.D) ∧ Claims.AddsToAccumulator .addRegE (fun s => s.E) ∧
  Claims.AddsToAccumulator .addRegH (fun s => s.H) ∧ Claims.AddsToAccumulator .addRegL (fun s => s.L) ∧
  Claims.AddsToAccumulator .addIndirect (fun s => (memRead s.mem (s.H ++ s.L)).1) ∧
  Claims.AddsToAccumulator .addRegAcc (fun s => s.A) ∧
  ∀ n, Claims.AddsToAccumulator (.addImmediate n) (fun _ => n)

/-- 10_state.md R31: what sets each flag and what reads it. No instruction reads a flag; Add writes all four
from its operands; of the accessors only the flag setters touch them. -/
def Obligations.FlagsAreWrittenByAddAndReadByNothing : Prop :=
  (∀ (i : Instr) (s : State) (f : Flags), exec i (setF f s) = exec i s) ∧
  (∀ (src : ArithSource) (s : State), ∃ t, exec (addOf src) s = .next t ∧
    (t.F.Z = true ↔ (s.A.toNat + (resolve src s).1.toNat) % 256 = 0) ∧ t.F.N = false ∧
    (t.F.H = true ↔ 15 < s.A.toNat % 16 + (resolve src s).1.toNat % 16) ∧
    (t.F.H = true ↔ t.A.toNat % 16 < (resolve src s).1.toNat % 16) ∧
    (t.F.C = true ↔ 255 < s.A.toNat + (resolve src s).1.toNat)) ∧
  (∀ (q : Access) (s : State), (accessState q s).F ≠ s.F →
    (∃ b, q = .setF b) ∨ q = .clearF ∨ (∃ x t, q = .setFlag x t) ∨ ∃ x, q = .clearFlag x) ∧
  (∀ (c : CollabChange) (s : State), (turn (.collab c) s).F = s.F) ∧ State.reset.F = Flags.zero

/-- 41_alu_add.md R153 to R158: Add of B, C, D, E, H and L, with their corner case (adding zero) and worked
examples. The `PC` modulo 2^16 is the spec's own decision D1 (notes/assumptions/1.md). -/
def Obligations.AddOfARegisterWholeEffect : Prop :=
  Claims.RegisterAdd .addRegB 0x80 (fun s => s.B) ∧ Claims.RegisterAdd .addRegC 0x81 (fun s => s.C) ∧
  Claims.RegisterAdd .addRegD 0x82 (fun s => s.D) ∧ Claims.RegisterAdd .addRegE 0x83 (fun s => s.E) ∧
  Claims.RegisterAdd .addRegH 0x84 (fun s => s.H) ∧ Claims.RegisterAdd .addRegL 0x85 (fun s => s.L) ∧
  (∀ s, s.B = 0x00 → ∃ t, exec .addRegB s = .next t ∧ t.A = s.A ∧
    t.F.toByte = if s.A = 0x00 then 0x80 else 0x00) ∧
  (∀ s, s.A = 0xE1 → s.B = 0xE1 → ∃ t, exec .addRegB s = .next t ∧ t.A = 0xC2 ∧ t.F.toByte = 0x10) ∧
  (∀ s, s.A = 0x0F → s.C = 0x01 → ∃ t, exec .addRegC s = .next t ∧ t.A = 0x10 ∧ t.F.toByte = 0x20) ∧
  (∀ s, s.A = 0x10 → s.D = 0xF0 → ∃ t, exec .addRegD s = .next t ∧ t.A = 0x00 ∧ t.F.toByte = 0x90) ∧
  (∀ s, s.A = 0x7F → s.E = 0x01 → ∃ t, exec .addRegE s = .next t ∧ t.A = 0x80 ∧ t.F.toByte = 0x20) ∧
  (∀ s, s.A = 0xF0 → s.H = 0x0F → ∃ t, exec .addRegH s = .next t ∧ t.A = 0xFF ∧ t.F.toByte = 0x00) ∧
  (∀ s, s.A = 0x00 → s.L = 0x00 → ∃ t, exec .addRegL s = .next t ∧ t.A = 0x00 ∧ t.F.toByte = 0x80)

/-- 41_alu_add.md R160: doubling, with the flags read off the old accumulator. `PC` as D1. -/
def Obligations.AddOfTheAccumulatorDoubles : Prop :=
  Claims.RegisterAdd .addRegAcc 0x87 (fun s => s.A) ∧
  ∀ s, ∃ t, exec .addRegAcc s = .next t ∧ t.A.toNat = 2 * s.A.toNat % 256 ∧
    (t.F.Z = true ↔ s.A = 0x00 ∨ s.A = 0x80) ∧ t.F.N = false ∧
    t.F.H = s.A.getLsbD 3 ∧ t.F.C = s.A.getLsbD 7

/-- 41_alu_add.md R159: one data read at `H ++ L`, after the fetch. The operand is the collaborator's answer,
whatever it is. `PC` as D1, the order of the reads as D8. That every address is held as before after the data
read is the model's choice (notes/assumptions/8.md): the spec leaves side effects of a read to the
collaborator (20_memory.md R64, R69). -/
def Obligations.AddOfTheIndirectByteWholeEffect : Prop :=
  (∀ rest, decode (0x86 :: rest) = some .addIndirect) ∧ encode .addIndirect = [0x86] ∧
  ∀ s,
    exec .addIndirect s =
      .next (Claims.afterAdd (memRead s.mem (s.H ++ s.L)).1 1 (memRead s.mem (s.H ++ s.L)).2 s) ∧
    (∀ a, fetch (memRead s.mem (s.H ++ s.L)).2 a = fetch s.mem a) ∧
    (fetch s.mem s.PC = some 0x86 →
      step s = exec .addIndirect s ∧ stepReads s = [.fetch s.PC, .data (s.H ++ s.L)])

/-- 93_implementation_defined.md U5: Add(Indirect) runs with every answer the collaborator may give, also at
an address that holds another byte or none. How the answers stand in State is notes/assumptions/4.md. -/
def Obligations.AddOfTheIndirectByteForEveryAnswer : Prop :=
  ∀ (s : State) (v : Byte) (rest : List Byte), s.mem.replies = v :: rest →
    exec .addIndirect s = .next (Claims.afterAdd v 1 { s.mem with replies := rest } s)

/-- 41_alu_add.md R161: two bytes, no data read; a missing second byte is a decode failure with nothing
executed; adding 0x00 and 0xFF; the source's worked example. `PC` as D1, the window at 0xFFFF as D2. -/
def Obligations.AddOfAnImmediateWholeEffect : Prop :=
  (∀ n rest, decode (0xC6 :: n :: rest) = some (.addImmediate n)) ∧
  (∀ n, encode (.addImmediate n) = [0xC6, n]) ∧
  (∀ n s, exec (.addImmediate n) s = .next (Claims.afterAdd n 2 s.mem s)) ∧
  (∀ n s, fetch s.mem s.PC = some 0xC6 → s.PC ≠ 0xFFFF → fetch s.mem (s.PC + 1) = some n →
    step s = exec (.addImmediate n) s ∧ stepReads s = [.fetch s.PC, .fetch (s.PC + 1)]) ∧
  (∀ s, fetch s.mem s.PC = some 0xC6 → Claims.SecondAbsent s → step s = .fault .decodeInvalid) ∧
  (∀ s, ∃ t, exec (.addImmediate 0x00) s = .next t ∧ t.A = s.A) ∧
  (∀ s, ∃ t, exec (.addImmediate 0xFF) s = .next t ∧ t.A = s.A - 1 ∧ t.F.N = false ∧
    (t.F.C = true ↔ s.A ≠ 0x00) ∧ (t.F.H = true ↔ s.A.toNat % 16 ≠ 0)) ∧
  (∀ s, s.A = 0xFF → ∃ t, exec (.addImmediate 0x01) s = .next t ∧ t.A = 0x00 ∧ t.F.toByte = 0xB0)

/-- 40_step_and_operands.md R133: `execute` of an instruction value the host built, for every source. The
length by source is the spec's own decision D19, the `PC` modulo 2^16 D1. -/
def Obligations.ExecuteOfAnyAddValue : Prop :=
  ∀ (src : ArithSource) (s : State),
    exec (addOf src) s = .next (Claims.afterAdd (resolve src s).1
      (match src with | .immediate _ => 2 | .reg _ => 1 | .indirect => 1) (resolve src s).2 s)

/-- 41_alu_add.md R152: the required comparison, a carry out of bit 3, and the third equal form. -/
def Obligations.HalfCarryIsCarryOutOfBitThree : Prop :=
  ∀ a v : Byte,
    (addH a v = true ↔ (a.toNat + v.toNat) % 256 % 16 < v.toNat % 16) ∧
    (addH a v = true ↔ 15 < a.toNat % 16 + v.toNat % 16) ∧
    (addH a v = true ↔ (a.toNat + v.toNat) % 256 % 16 < a.toNat % 16)

/-- 41_alu_add.md R163, its five consequences. -/
def Obligations.AddFlagConsequences : Prop :=
  (∀ a v : Byte,
    ((addFlags a v).C = true ↔ (addResult a v).toNat < v.toNat) ∧
    ((addFlags a v).C = true ↔ (addResult a v).toNat < a.toNat) ∧
    ((addFlags a v).Z = true ↔ a.toNat + v.toNat = 0 ∨ a.toNat + v.toNat = 256) ∧
    ((addFlags a v).Z = true ∧ (addFlags a v).C = false ↔ a = 0x00 ∧ v = 0x00) ∧
    addResult a v = addResult v a ∧ addFlags a v = addFlags v a ∧
    addResult a 0x00 = a ∧ (addFlags a 0x00).H = false ∧ (addFlags a 0x00).C = false ∧
    ((addFlags a 0x00).Z = true ↔ a = 0x00)) ∧
  ∀ b : Byte, (∃ a v, (addFlags a v).toByte = b) ↔ b ∈ [0x00, 0x10, 0x20, 0x30, 0x80, 0x90, 0xB0]

/-- 41_alu_add.md R165: the `PC` advance of the family, "from whatever value it held before". Modulo 2^16 is
the spec's own decision D1 (notes/assumptions/1.md). -/
def Obligations.AddAdvancesPCByItsLength : Prop :=
  ∀ (s : State) (b0 : Byte), fetch s.mem s.PC = some b0 →
    (0x80 ≤ b0.toNat → b0.toNat ≤ 0x87 →
      ∃ t, step s = .next t ∧ t.PC.toNat = (s.PC.toNat + 1) % 65536) ∧
    (b0 = 0xC6 → ¬ Claims.SecondAbsent s → ∃ t, step s = .next t ∧ t.PC.toNat = (s.PC.toNat + 2) % 65536)

/-- 41_alu_add.md R163 (5) at the step: every OK step leaves one of seven flag bytes. -/
def Obligations.OkStepLeavesOneOfSevenFlagBytes : Prop :=
  ∀ s t, step s = .next t → t.F.toByte ∈ [0x00, 0x10, 0x20, 0x30, 0x80, 0x90, 0xB0]

/-! ## Frames -/

/-- 10_state.md R32, 20_memory.md R66: what every instruction leaves unchanged when it gives a next state.
Only `A`, `F` and `PC` are written, and the core stores nothing. The clauses about the collaborator across the
data read of Add(Indirect) are the model's choice: that every address is held as before
(notes/assumptions/8.md), and that the answers ready on the data port change by the one it takes
(notes/assumptions/4.md). -/
def Obligations.InstructionsLeaveTheRestUnchanged : Prop :=
  ∀ (i : Instr) (s t : State), exec i s = .next t →
    (∀ r, r ≠ .Acc → getReg r t = getReg r s) ∧ t.SP = s.SP ∧
    (∀ p, getPair p t = getPair p s) ∧
    (∀ a, fetch t.mem a = fetch s.mem a) ∧
    (i ≠ .addIndirect → t.mem = s.mem) ∧
    (i = .addIndirect → t.mem.replies = s.mem.replies.tail)

/-- 70_reset_and_hazards.md R244 over any run: no implemented instruction loads a register other than `A`, and
none touches `SP`. That the bytes held stay as they are over the run is the model's choice
(notes/assumptions/3.md and notes/assumptions/8.md, unsafe over several steps): the core writes none
(20_memory.md R66), but a collaborator of the spec may change its own. -/
def Obligations.RunsNeverLoadOtherRegisters : Prop :=
  ∀ (n : Nat) (s t : State), RunsOk n s t →
    (∀ r, r ≠ .Acc → getReg r t = getReg r s) ∧ t.SP = s.SP ∧ ∀ a, fetch t.mem a = fetch s.mem a

/-- 42_unimplemented.md R188 over any run: the only change of `PC` is the sequential advance, so `n` OK steps
move it forward by at least `n` and at most `2 n` bytes, modulo 2^16 (decision D1). -/
def Obligations.RunsAdvancePCSequentially : Prop :=
  ∀ (n : Nat) (s t : State), RunsOk n s t →
    ∃ k, n ≤ k ∧ k ≤ 2 * n ∧ t.PC.toNat = (s.PC.toNat + k) % 65536

/-! ## Rows without semantics -/

/-- 42_unimplemented.md R181. -/
def Obligations.BlockZeroIsRefused : Prop :=
  (∀ b0 s, exec (.block0 b0) s = .refused (.unimplemented .block0 b0 none)) ∧
  ∀ (b0 : Byte) (rest : List Byte), b0.toNat ≤ 0x3F →
    decode (b0 :: rest) = some (.block0 b0) ∧
    decodeResult (b0 :: rest) = .unimplemented .block0 b0 none ∧
    ∀ s, fetch s.mem s.PC = some b0 →
      step s = .refused (.unimplemented .block0 b0 none) ∧ stepReads s = [.fetch s.PC] ∧ turn .step s = s

/-- 42_unimplemented.md R182. -/
def Obligations.BlockOneIsRefused : Prop :=
  (∀ b0 s, exec (.block1 b0) s = .refused (.unimplemented .block1 b0 none)) ∧
  ∀ (b0 : Byte) (rest : List Byte), 0x40 ≤ b0.toNat → b0.toNat ≤ 0x7F →
    decode (b0 :: rest) = some (.block1 b0) ∧
    decodeResult (b0 :: rest) = .unimplemented .block1 b0 none ∧
    ∀ s, fetch s.mem s.PC = some b0 →
      step s = .refused (.unimplemented .block1 b0 none) ∧ stepReads s = [.fetch s.PC] ∧ turn .step s = s

/-- 42_unimplemented.md R183: no data read either, also for `r = 6`. -/
def Obligations.BlockTwoOperationsOneToSevenAreRefused : Prop :=
  (∀ (r : BitVec 3) (s : State),
    exec (.block2Op1 r) s = .refused (.unimplemented .block2Op (BitVec.ofNat 8 (0x88 + r.toNat)) none) ∧
    exec (.block2Op2 r) s = .refused (.unimplemented .block2Op (BitVec.ofNat 8 (0x90 + r.toNat)) none) ∧
    exec (.block2Op3 r) s = .refused (.unimplemented .block2Op (BitVec.ofNat 8 (0x98 + r.toNat)) none) ∧
    exec (.block2Op4 r) s = .refused (.unimplemented .block2Op (BitVec.ofNat 8 (0xA0 + r.toNat)) none) ∧
    exec (.block2Op5 r) s = .refused (.unimplemented .block2Op (BitVec.ofNat 8 (0xA8 + r.toNat)) none) ∧
    exec (.block2Op6 r) s = .refused (.unimplemented .block2Op (BitVec.ofNat 8 (0xB0 + r.toNat)) none) ∧
    exec (.block2Op7 r) s = .refused (.unimplemented .block2Op (BitVec.ofNat 8 (0xB8 + r.toNat)) none)) ∧
  ∀ (b0 : Byte) (rest : List Byte), 0x88 ≤ b0.toNat → b0.toNat ≤ 0xBF →
    decodeResult (b0 :: rest) = .unimplemented .block2Op b0 none ∧
    ∀ s, fetch s.mem s.PC = some b0 →
      step s = .refused (.unimplemented .block2Op b0 none) ∧ stepReads s = [.fetch s.PC] ∧ turn .step s = s

/-- 42_unimplemented.md R184: the length check comes before the operation check, the spec's own decision
D5. -/
def Obligations.BlockThreeImmediateOperationsOneToSevenAreRefused : Prop :=
  (∀ (n : Byte) (s : State),
    exec (.block3ImmOp1 n) s = .refused (.unimplemented .block3ImmOp 0xCE (some n)) ∧
    exec (.block3ImmOp2 n) s = .refused (.unimplemented .block3ImmOp 0xD6 (some n)) ∧
    exec (.block3ImmOp3 n) s = .refused (.unimplemented .block3ImmOp 0xDE (some n)) ∧
    exec (.block3ImmOp4 n) s = .refused (.unimplemented .block3ImmOp 0xE6 (some n)) ∧
    exec (.block3ImmOp5 n) s = .refused (.unimplemented .block3ImmOp 0xEE (some n)) ∧
    exec (.block3ImmOp6 n) s = .refused (.unimplemented .block3ImmOp 0xF6 (some n)) ∧
    exec (.block3ImmOp7 n) s = .refused (.unimplemented .block3ImmOp 0xFE (some n))) ∧
  ∀ b0 : Byte, b0.toNat ∈ [0xCE, 0xD6, 0xDE, 0xE6, 0xEE, 0xF6, 0xFE] →
    decodeResult [b0] = .invalid ∧
    (∀ n rest, decodeResult (b0 :: n :: rest) = .unimplemented .block3ImmOp b0 (some n)) ∧
    ∀ s, fetch s.mem s.PC = some b0 →
      (Claims.SecondAbsent s → step s = .fault .decodeInvalid ∧ turn .step s = s) ∧
      ∀ n, s.PC ≠ 0xFFFF → fetch s.mem (s.PC + 1) = some n →
        step s = .refused (.unimplemented .block3ImmOp b0 (some n)) ∧ turn .step s = s

/-- 42_unimplemented.md R185: every second byte. That the form is two bytes is the spec's own decision D6. -/
def Obligations.TheEscapeByteIsRefused : Prop :=
  (∀ sel s, exec (.prefixed sel) s = .refused (.unimplemented .prefixed 0xCB (some sel))) ∧
  decodeResult [0xCB] = .invalid ∧
  (∀ sel rest, decode (0xCB :: sel :: rest) = some (.prefixed sel) ∧
    decodeResult (0xCB :: sel :: rest) = .unimplemented .prefixed 0xCB (some sel)) ∧
  ∀ s, fetch s.mem s.PC = some 0xCB →
    (Claims.SecondAbsent s → step s = .fault .decodeInvalid ∧ turn .step s = s) ∧
    ∀ sel, s.PC ≠ 0xFFFF → fetch s.mem (s.PC + 1) = some sel →
      step s = .refused (.unimplemented .prefixed 0xCB (some sel)) ∧ turn .step s = s

/-- 42_unimplemented.md R186: the 55 remaining bytes of block 3. -/
def Obligations.TheRestOfBlockThreeIsRefused : Prop :=
  (∀ (b0 : Byte) (s : State),
    exec (.block3OtherR0 b0) s = .refused (.unimplemented .block3Other b0 none) ∧
    exec (.block3OtherR1 b0) s = .refused (.unimplemented .block3Other b0 none) ∧
    exec (.block3OtherR2 b0) s = .refused (.unimplemented .block3Other b0 none) ∧
    exec (.block3OtherR4 b0) s = .refused (.unimplemented .block3Other b0 none) ∧
    exec (.block3OtherR5 b0) s = .refused (.unimplemented .block3Other b0 none) ∧
    exec (.block3OtherR7 b0) s = .refused (.unimplemented .block3Other b0 none) ∧
    exec .block3OtherR3Op0 s = .refused (.unimplemented .block3Other 0xC3 none) ∧
    exec (.block3OtherR3Op2To3 b0) s = .refused (.unimplemented .block3Other b0 none) ∧
    exec (.block3OtherR3Op4To7 b0) s = .refused (.unimplemented .block3Other b0 none)) ∧
  ∀ (b0 : Byte) (rest : List Byte), 0xC0 ≤ b0.toNat → b0.toNat % 8 ≠ 6 → b0.toNat ≠ 0xCB →
    decodeResult (b0 :: rest) = .unimplemented .block3Other b0 none ∧
    ∀ s, fetch s.mem s.PC = some b0 →
      step s = .refused (.unimplemented .block3Other b0 none) ∧ stepReads s = [.fetch s.PC] ∧
      turn .step s = s

/-! ## Memory and the environment -/

/-- 20_memory.md R78: a change of the held bytes between two steps is seen by the next fetch, and is the
collaborator's alone. How such a change is written down is notes/assumptions/10.md; which answer the data port
gives after it (the ready ones first and in order, then the byte held, then the answer for what is not held) is
notes/assumptions/4.md. -/
def Obligations.CollaboratorChangesAreSeenAtOnce : Prop :=
  ∀ (s : State) (a q : Word) (b : Byte),
    fetch (turn (.collab (.hold a b)) s).mem a = some b ∧
    fetch (turn (.collab (.vacate a)) s).mem a = none ∧
    (q ≠ a → fetch (turn (.collab (.hold a b)) s).mem q = fetch s.mem q ∧
      fetch (turn (.collab (.vacate a)) s).mem q = fetch s.mem q) ∧
    (s.mem.replies = [] →
      (memRead (turn (.collab (.hold a b)) s).mem a).1 = b ∧
      (memRead (turn (.collab (.ready b)) s).mem a).1 = b ∧
      (fetch s.mem a = none → (memRead (turn (.collab (.answerUnheld (some b))) s).mem a).1 = b)) ∧
    (∀ (r : Byte) (rest : List Byte), s.mem.replies = r :: rest →
      (memRead (turn (.collab (.ready b)) s).mem a).1 = r ∧
      (memRead (turn (.collab (.ready b)) s).mem a).2.replies = rest ++ [b]) ∧
    (∀ x, fetch (turn (.collab (.answerUnheld x)) s).mem a = fetch s.mem a) ∧
    fetch (turn (.collab (.ready b)) s).mem a = fetch s.mem a ∧
    ∀ c, setMem s.mem (turn (.collab c) s) = s

/-- Memories in canonical form that hold the same byte, or none, at every address are equal data. The canonical
form is the model's (notes/assumptions/3.md). -/
def Obligations.CanonicalMemoriesAreEqualData : Prop :=
  ∀ m1 m2 : Memory, Memory.wf m1 → Memory.wf m2 →
    (∀ a, a < 65536 → Memory.read m1 a = Memory.read m2 a) → m1 = m2

/-- 20_memory.md R80, the reference memory of the spec's test programs (the spec's own decision D24): its fetch
port is the array with `absent` beyond it, its data port is the array with 0x00 beyond it, and no read and no run
of OK steps changes it. How it stands in State is notes/assumptions/4.md. -/
def Obligations.ReferenceMemoryAnswersItsArray : Prop :=
  ∀ M : List Byte, M.length ≤ 65536 →
    Memory.wf (Collaborator.reference M).cells ∧
    (∀ a : Word,
      (∀ h : a.toNat < M.length, fetch (Collaborator.reference M) a = some M[a.toNat] ∧
        memRead (Collaborator.reference M) a = (M[a.toNat], Collaborator.reference M)) ∧
      (M.length ≤ a.toNat → fetch (Collaborator.reference M) a = none ∧
        memRead (Collaborator.reference M) a = (0x00, Collaborator.reference M))) ∧
    ∀ (n : Nat) (s t : State), s.mem = Collaborator.reference M → RunsOk n s t →
      t.mem = Collaborator.reference M

/-! ## Invariants -/

/-- A step from any state that meets the invariant, on a run or not, gives a state that meets it; so does every
turn of a session: a step of any outcome, an accessor call, a change inside the collaborator. The canonical
form is the model's (notes/assumptions/3.md). -/
def Obligations.StepKeepsInvariant : Prop :=
  (∀ s t, StateInv s → step s = .next t → StateInv t) ∧
  ∀ (s : State) (x : Turn), StateInv s → StateInv (turn x s)

/-- 10_state.md R30 at the byte the host reads (its getter is the spec's own decision D13): in every reachable
state bits 3 to 0 read zero; the byte-level setter "masks out the low nibble", so that over a whole session
nothing depends on the low bits written; and every Add leaves a byte that is the sum of its flags at bits 7, 5
and 4 and nothing else. -/
def Obligations.FlagsLowNibbleIsAlwaysZero : Prop :=
  (∀ t, Reachable t → ∃ b : Byte, accessAnswer .getF t = .byte b ∧ b.toNat % 16 = 0) ∧
  (∀ (b : Byte) (s : State),
    accessAnswer .getF (accessState (.setF b) s) = .byte (BitVec.ofNat 8 (b.toNat / 16 * 16))) ∧
  (∀ (ts : List Turn) (s : State), session (ts.map Claims.clearLowFlagBits) s = session ts s) ∧
  ∀ (src : ArithSource) (s : State), ∃ t, exec (addOf src) s = .next t ∧
    accessAnswer .getF t = .byte (BitVec.ofNat 8
      ((if (s.A.toNat + (resolve src s).1.toNat) % 256 = 0 then 128 else 0) +
       (if 15 < s.A.toNat % 16 + (resolve src s).1.toNat % 16 then 32 else 0) +
       if 255 < s.A.toNat + (resolve src s).1.toNat then 16 else 0))

/-- The invariant of Safety.lean holds after any session of steps, accessor calls and collaborator changes,
in any order, from reset. The memory at reset is the model's choice (notes/assumptions/5.md). -/
def Obligations.EveryReachableStateMeetsInvariant : Prop := ∀ t, Reachable t → StateInv t
end

