-- ==== Sys2Proof/Laws/Decode.lean ====
section
/-! SUPPORT. The decoder's small lemmas: fields, windows, operand sources. -/

namespace Sys2Proof

@[simp] theorem blkOf_opcodeByte (blk : BitVec 2) (op r : BitVec 3) : blkOf (opcodeByte blk op r) = blk := by
  revert blk op r; decide

@[simp] theorem opOf_opcodeByte (blk : BitVec 2) (op r : BitVec 3) : opOf (opcodeByte blk op r) = op := by
  revert blk op r; decide

@[simp] theorem rOf_opcodeByte (blk : BitVec 2) (op r : BitVec 3) : rOf (opcodeByte blk op r) = r := by
  revert blk op r; decide

/-- The three fields make up the opcode byte again (30_encoding.md R91). -/
theorem opcodeByte_fields (b0 : Byte) : opcodeByte (blkOf b0) (opOf b0) (rOf b0) = b0 := by
  revert b0; decide

@[simp] theorem addOf_source (src : ArithSource) : (addOf src).source? = some src := by
  cases src with
  | reg x => cases x <;> rfl
  | indirect => rfl
  | immediate n => rfl

@[simp] theorem decode_nil : decode [] = none := rfl

/-- A first byte that needs no second is decoded alone (30_encoding.md R103). -/
theorem decode_first_alone (b0 : Byte) (rest : List Byte) (h : needsSecond b0 = false) :
    decode (b0 :: rest) = decode [b0] := by
  have h1 : b0 ≠ 0xCB := by rintro rfl; revert h; decide
  simp only [decode, if_neg h1]
  split
  · rfl
  · rfl
  · rfl
  · rename_i h2 h3 h4
    have h5 : blkOf b0 = 3#2 := by
      revert h2 h3 h4; generalize blkOf b0 = k; revert k; decide
    have h6 : ¬ rOf b0 = 6 := by
      intro h6; simp [needsSecond, h5, h6] at h
    simp only [decodeBlock3, if_neg h6]

/-- Bytes beyond the second are not looked at (30_encoding.md R104). -/
theorem decode_two (b0 b1 : Byte) (rest : List Byte) : decode (b0 :: b1 :: rest) = decode [b0, b1] := by
  simp only [decode, decodeBlock3]

end Sys2Proof
end

