-- ==== Sys2Proof/Laws/Memory.lean ====
section
/-! SUPPORT. Reads after writes of the collaborator's memory, and that every memory operation keeps the
canonical form. -/

namespace Sys2Proof.Machine

@[simp] theorem Memory.read_nil (a : Nat) : Memory.read [] a = none := rfl

@[simp] theorem Memory.read_cons (k : Nat) (b : Byte) (m : Memory) (a : Nat) :
    Memory.read ((k, b) :: m) a = if k = a then some b else Memory.read m a := rfl

/-- Below every listed address nothing is held. -/
theorem Memory.read_below (m : Memory) (a : Nat) (h : ∀ c ∈ m, a < c.1) : Memory.read m a = none := by
  induction m with
  | nil => rfl
  | cons c rest ih =>
    obtain ⟨k, b⟩ := c
    have hk : a < k := h (k, b) (by simp)
    have hne : k ≠ a := by omega
    simp only [Memory.read_cons, if_neg hne]
    exact ih fun c hc => h c (by simp [hc])

@[simp] theorem Memory.read_put_same (m : Memory) (a : Nat) (b : Byte) :
    Memory.read (Memory.put m a b) a = some b := by
  induction m with
  | nil => simp [Memory.put]
  | cons c rest ih =>
    obtain ⟨k, x⟩ := c
    simp only [Memory.put]
    split
    · simp
    · split
      · simp
      · rename_i h1 h2
        have : k ≠ a := fun h => h2 h.symm
        simp [this, ih]

theorem Memory.read_put_ne (m : Memory) (a q : Nat) (b : Byte) (h : q ≠ a) :
    Memory.read (Memory.put m a b) q = Memory.read m q := by
  have ha : a ≠ q := fun e => h e.symm
  induction m with
  | nil => simp [Memory.put, ha]
  | cons c rest ih =>
    obtain ⟨k, x⟩ := c
    simp only [Memory.put]
    split
    · simp [ha]
    · split
      · rename_i h2
        subst h2
        simp [ha]
      · simp [ih]

@[simp] theorem Memory.read_drop_same (m : Memory) (a : Nat) : Memory.read (Memory.drop m a) a = none := by
  induction m with
  | nil => rfl
  | cons c rest ih =>
    obtain ⟨k, x⟩ := c
    by_cases hk : k = a
    · subst hk; simpa [Memory.drop] using ih
    · simpa [Memory.drop, hk] using ih

theorem Memory.read_drop_ne (m : Memory) (a q : Nat) (h : q ≠ a) :
    Memory.read (Memory.drop m a) q = Memory.read m q := by
  induction m with
  | nil => rfl
  | cons c rest ih =>
    obtain ⟨k, x⟩ := c
    by_cases hk : k = a
    · subst hk
      have hq : k ≠ q := fun e => h e.symm
      simpa [Memory.drop, hq] using ih
    · have ih' := ih
      simp only [Memory.drop] at ih'
      simp [Memory.drop, hk, ih']

/-- What a put can list: what was listed, and the one cell put. -/
theorem Memory.mem_put (m : Memory) (a : Nat) (b : Byte) (c : Host.Cell) (h : c ∈ Memory.put m a b) :
    c = (a, b) ∨ c ∈ m := by
  induction m with
  | nil => simpa [Memory.put] using h
  | cons d rest ih =>
    obtain ⟨k, x⟩ := d
    simp only [Memory.put] at h
    split at h
    · simpa using h
    · split at h
      · rcases List.mem_cons.mp h with h | h
        · exact .inl h
        · exact .inr (List.mem_cons_of_mem _ h)
      · rcases List.mem_cons.mp h with h | h
        · exact .inr (h ▸ List.mem_cons_self)
        · rcases ih h with h | h
          · exact .inl h
          · exact .inr (List.mem_cons_of_mem _ h)

/-- Holding a byte at a 16-bit address keeps the canonical form. -/
theorem Memory.put_wf (m : Memory) (a : Nat) (b : Byte) (ha : a < 65536) (h : Memory.wf m) :
    Memory.wf (Memory.put m a b) := by
  obtain ⟨hp, hb⟩ := h
  refine ⟨?_, fun c hc => ?_⟩
  · clear hb
    induction m with
    | nil => simp [Memory.put]
    | cons d rest ih =>
      obtain ⟨k, x⟩ := d
      obtain ⟨hk, hrest⟩ := List.pairwise_cons.mp hp
      simp only [Memory.put]
      split
      · rename_i hak
        refine List.pairwise_cons.mpr ⟨fun c hc => ?_, hp⟩
        rcases List.mem_cons.mp hc with hc | hc
        · subst hc; exact hak
        · exact Nat.lt_trans hak (hk c hc)
      · split
        · rename_i hak
          subst hak
          exact List.pairwise_cons.mpr ⟨hk, hrest⟩
        · refine List.pairwise_cons.mpr ⟨fun c hc => ?_, ih hrest⟩
          rcases Memory.mem_put rest a b c hc with hc | hc
          · subst hc; show k < a; omega
          · exact hk c hc
  · rcases Memory.mem_put m a b c hc with hc | hc
    · subst hc; exact ha
    · exact hb c hc

/-- Holding no byte at an address keeps the canonical form. -/
theorem Memory.drop_wf (m : Memory) (a : Nat) (h : Memory.wf m) : Memory.wf (Memory.drop m a) :=
  ⟨h.1.filter _, fun c hc => h.2 c (List.mem_filter.mp hc).1⟩

/-- The flat array of the reference memory lists addresses from `a` to `a + length`. -/
theorem Memory.ofBytes_bounds (a : Nat) (bs : List Byte) (c : Host.Cell) (h : c ∈ Memory.ofBytes a bs) :
    a ≤ c.1 ∧ c.1 < a + bs.length := by
  induction bs generalizing a with
  | nil => simp [Memory.ofBytes] at h
  | cons b rest ih =>
    simp only [Memory.ofBytes, List.mem_cons] at h
    rcases h with h | h
    · subst h; simp
    · have := ih (a + 1) h
      simp only [List.length_cons]; omega

/-- The flat array of the reference memory is in canonical form (20_memory.md R80). -/
theorem Memory.ofBytes_wf (a : Nat) (bs : List Byte) (h : a + bs.length ≤ 65536) :
    Memory.wf (Memory.ofBytes a bs) := by
  refine ⟨?_, fun c hc => by have := Memory.ofBytes_bounds a bs c hc; omega⟩
  clear h
  induction bs generalizing a with
  | nil => simp [Memory.ofBytes]
  | cons b rest ih =>
    refine List.pairwise_cons.mpr ⟨fun c hc => ?_, ih (a + 1)⟩
    have := Memory.ofBytes_bounds (a + 1) rest c hc
    show a < c.1; omega

/-- Reading the flat array of the reference memory is indexing it (20_memory.md R80). -/
theorem Memory.read_ofBytes (bs : List Byte) (k a : Nat) :
    Memory.read (Memory.ofBytes k bs) (k + a) = bs[a]? := by
  induction bs generalizing k a with
  | nil => rfl
  | cons b rest ih =>
    cases a with
    | zero => simp [Memory.ofBytes]
    | succ a =>
      have hne : k ≠ k + (a + 1) := by omega
      have hk : k + (a + 1) = k + 1 + a := by omega
      rw [Memory.ofBytes, Memory.read_cons, if_neg hne, hk, ih (k + 1) a, List.getElem?_cons_succ]

/-- The canonical form holds after each change inside the collaborator. -/
theorem collabAfter_wf (c : CollabChange) (m : Collaborator) (h : Memory.wf m.cells) :
    Memory.wf (collabAfter c m).cells := by
  cases c with
  | hold a b => exact Memory.put_wf _ _ _ a.isLt h
  | vacate a => exact Memory.drop_wf _ _ h
  | ready b => exact h
  | answerUnheld x => exact h

/-- Reset memory is in canonical form. -/
theorem reset_mem_wf : Memory.wf State.reset.mem.cells := by simp [State.reset, Collaborator.empty, Memory.wf]

end Sys2Proof.Machine
end

