-- ==== Sys2Proof/Laws/State.lean ====
section
/-! SUPPORT. One lemma per field per state update, and reads after writes of registers and pair views. -/

namespace Sys2Proof.Machine

/-! ### `setSP` -/

@[simp] theorem setSP_A (v : Word) (s : State) : (setSP v s).A = s.A := rfl
@[simp] theorem setSP_B (v : Word) (s : State) : (setSP v s).B = s.B := rfl
@[simp] theorem setSP_C (v : Word) (s : State) : (setSP v s).C = s.C := rfl
@[simp] theorem setSP_D (v : Word) (s : State) : (setSP v s).D = s.D := rfl
@[simp] theorem setSP_E (v : Word) (s : State) : (setSP v s).E = s.E := rfl
@[simp] theorem setSP_H (v : Word) (s : State) : (setSP v s).H = s.H := rfl
@[simp] theorem setSP_L (v : Word) (s : State) : (setSP v s).L = s.L := rfl
@[simp] theorem setSP_F (v : Word) (s : State) : (setSP v s).F = s.F := rfl
@[simp] theorem setSP_SP (v : Word) (s : State) : (setSP v s).SP = v := rfl
@[simp] theorem setSP_PC (v : Word) (s : State) : (setSP v s).PC = s.PC := rfl
@[simp] theorem setSP_mem (v : Word) (s : State) : (setSP v s).mem = s.mem := rfl

/-! ### `setPC` -/

@[simp] theorem setPC_A (v : Word) (s : State) : (setPC v s).A = s.A := rfl
@[simp] theorem setPC_B (v : Word) (s : State) : (setPC v s).B = s.B := rfl
@[simp] theorem setPC_C (v : Word) (s : State) : (setPC v s).C = s.C := rfl
@[simp] theorem setPC_D (v : Word) (s : State) : (setPC v s).D = s.D := rfl
@[simp] theorem setPC_E (v : Word) (s : State) : (setPC v s).E = s.E := rfl
@[simp] theorem setPC_H (v : Word) (s : State) : (setPC v s).H = s.H := rfl
@[simp] theorem setPC_L (v : Word) (s : State) : (setPC v s).L = s.L := rfl
@[simp] theorem setPC_F (v : Word) (s : State) : (setPC v s).F = s.F := rfl
@[simp] theorem setPC_SP (v : Word) (s : State) : (setPC v s).SP = s.SP := rfl
@[simp] theorem setPC_PC (v : Word) (s : State) : (setPC v s).PC = v := rfl
@[simp] theorem setPC_mem (v : Word) (s : State) : (setPC v s).mem = s.mem := rfl

/-! ### `setF` -/

@[simp] theorem setF_A (f : Flags) (s : State) : (setF f s).A = s.A := rfl
@[simp] theorem setF_B (f : Flags) (s : State) : (setF f s).B = s.B := rfl
@[simp] theorem setF_C (f : Flags) (s : State) : (setF f s).C = s.C := rfl
@[simp] theorem setF_D (f : Flags) (s : State) : (setF f s).D = s.D := rfl
@[simp] theorem setF_E (f : Flags) (s : State) : (setF f s).E = s.E := rfl
@[simp] theorem setF_H (f : Flags) (s : State) : (setF f s).H = s.H := rfl
@[simp] theorem setF_L (f : Flags) (s : State) : (setF f s).L = s.L := rfl
@[simp] theorem setF_F (f : Flags) (s : State) : (setF f s).F = f := rfl
@[simp] theorem setF_SP (f : Flags) (s : State) : (setF f s).SP = s.SP := rfl
@[simp] theorem setF_PC (f : Flags) (s : State) : (setF f s).PC = s.PC := rfl
@[simp] theorem setF_mem (f : Flags) (s : State) : (setF f s).mem = s.mem := rfl

/-! ### `setMem` -/

@[simp] theorem setMem_A (m : Collaborator) (s : State) : (setMem m s).A = s.A := rfl
@[simp] theorem setMem_B (m : Collaborator) (s : State) : (setMem m s).B = s.B := rfl
@[simp] theorem setMem_C (m : Collaborator) (s : State) : (setMem m s).C = s.C := rfl
@[simp] theorem setMem_D (m : Collaborator) (s : State) : (setMem m s).D = s.D := rfl
@[simp] theorem setMem_E (m : Collaborator) (s : State) : (setMem m s).E = s.E := rfl
@[simp] theorem setMem_H (m : Collaborator) (s : State) : (setMem m s).H = s.H := rfl
@[simp] theorem setMem_L (m : Collaborator) (s : State) : (setMem m s).L = s.L := rfl
@[simp] theorem setMem_F (m : Collaborator) (s : State) : (setMem m s).F = s.F := rfl
@[simp] theorem setMem_SP (m : Collaborator) (s : State) : (setMem m s).SP = s.SP := rfl
@[simp] theorem setMem_PC (m : Collaborator) (s : State) : (setMem m s).PC = s.PC := rfl
@[simp] theorem setMem_mem (m : Collaborator) (s : State) : (setMem m s).mem = m := rfl

/-! ### `commit` -/

@[simp] theorem commit_A (a : Byte) (f : Flags) (pc : Word) (m : Collaborator) (s : State) : (commit a f pc m s).A = a := rfl
@[simp] theorem commit_B (a : Byte) (f : Flags) (pc : Word) (m : Collaborator) (s : State) : (commit a f pc m s).B = s.B := rfl
@[simp] theorem commit_C (a : Byte) (f : Flags) (pc : Word) (m : Collaborator) (s : State) : (commit a f pc m s).C = s.C := rfl
@[simp] theorem commit_D (a : Byte) (f : Flags) (pc : Word) (m : Collaborator) (s : State) : (commit a f pc m s).D = s.D := rfl
@[simp] theorem commit_E (a : Byte) (f : Flags) (pc : Word) (m : Collaborator) (s : State) : (commit a f pc m s).E = s.E := rfl
@[simp] theorem commit_H (a : Byte) (f : Flags) (pc : Word) (m : Collaborator) (s : State) : (commit a f pc m s).H = s.H := rfl
@[simp] theorem commit_L (a : Byte) (f : Flags) (pc : Word) (m : Collaborator) (s : State) : (commit a f pc m s).L = s.L := rfl
@[simp] theorem commit_F (a : Byte) (f : Flags) (pc : Word) (m : Collaborator) (s : State) : (commit a f pc m s).F = f := rfl
@[simp] theorem commit_SP (a : Byte) (f : Flags) (pc : Word) (m : Collaborator) (s : State) : (commit a f pc m s).SP = s.SP := rfl
@[simp] theorem commit_PC (a : Byte) (f : Flags) (pc : Word) (m : Collaborator) (s : State) : (commit a f pc m s).PC = pc := rfl
@[simp] theorem commit_mem (a : Byte) (f : Flags) (pc : Word) (m : Collaborator) (s : State) : (commit a f pc m s).mem = m := rfl

/-! ### `setReg` -/

@[simp] theorem setReg_F (r : Reg8) (v : Byte) (s : State) : (setReg r v s).F = s.F := by
  cases r <;> rfl
@[simp] theorem setReg_SP (r : Reg8) (v : Byte) (s : State) : (setReg r v s).SP = s.SP := by
  cases r <;> rfl
@[simp] theorem setReg_PC (r : Reg8) (v : Byte) (s : State) : (setReg r v s).PC = s.PC := by
  cases r <;> rfl
@[simp] theorem setReg_mem (r : Reg8) (v : Byte) (s : State) : (setReg r v s).mem = s.mem := by
  cases r <;> rfl
@[simp] theorem getReg_Acc (s : State) : getReg .Acc s = s.A := rfl
@[simp] theorem getReg_B (s : State) : getReg .B s = s.B := rfl
@[simp] theorem getReg_C (s : State) : getReg .C s = s.C := rfl
@[simp] theorem getReg_D (s : State) : getReg .D s = s.D := rfl
@[simp] theorem getReg_E (s : State) : getReg .E s = s.E := rfl
@[simp] theorem getReg_H (s : State) : getReg .H s = s.H := rfl
@[simp] theorem getReg_L (s : State) : getReg .L s = s.L := rfl
@[simp] theorem setReg_Acc_A (v : Byte) (s : State) : (setReg .Acc v s).A = v := rfl
@[simp] theorem setReg_Acc_B (v : Byte) (s : State) : (setReg .Acc v s).B = s.B := rfl
@[simp] theorem setReg_Acc_C (v : Byte) (s : State) : (setReg .Acc v s).C = s.C := rfl
@[simp] theorem setReg_Acc_D (v : Byte) (s : State) : (setReg .Acc v s).D = s.D := rfl
@[simp] theorem setReg_Acc_E (v : Byte) (s : State) : (setReg .Acc v s).E = s.E := rfl
@[simp] theorem setReg_Acc_H (v : Byte) (s : State) : (setReg .Acc v s).H = s.H := rfl
@[simp] theorem setReg_Acc_L (v : Byte) (s : State) : (setReg .Acc v s).L = s.L := rfl
@[simp] theorem setReg_B_A (v : Byte) (s : State) : (setReg .B v s).A = s.A := rfl
@[simp] theorem setReg_B_B (v : Byte) (s : State) : (setReg .B v s).B = v := rfl
@[simp] theorem setReg_B_C (v : Byte) (s : State) : (setReg .B v s).C = s.C := rfl
@[simp] theorem setReg_B_D (v : Byte) (s : State) : (setReg .B v s).D = s.D := rfl
@[simp] theorem setReg_B_E (v : Byte) (s : State) : (setReg .B v s).E = s.E := rfl
@[simp] theorem setReg_B_H (v : Byte) (s : State) : (setReg .B v s).H = s.H := rfl
@[simp] theorem setReg_B_L (v : Byte) (s : State) : (setReg .B v s).L = s.L := rfl
@[simp] theorem setReg_C_A (v : Byte) (s : State) : (setReg .C v s).A = s.A := rfl
@[simp] theorem setReg_C_B (v : Byte) (s : State) : (setReg .C v s).B = s.B := rfl
@[simp] theorem setReg_C_C (v : Byte) (s : State) : (setReg .C v s).C = v := rfl
@[simp] theorem setReg_C_D (v : Byte) (s : State) : (setReg .C v s).D = s.D := rfl
@[simp] theorem setReg_C_E (v : Byte) (s : State) : (setReg .C v s).E = s.E := rfl
@[simp] theorem setReg_C_H (v : Byte) (s : State) : (setReg .C v s).H = s.H := rfl
@[simp] theorem setReg_C_L (v : Byte) (s : State) : (setReg .C v s).L = s.L := rfl
@[simp] theorem setReg_D_A (v : Byte) (s : State) : (setReg .D v s).A = s.A := rfl
@[simp] theorem setReg_D_B (v : Byte) (s : State) : (setReg .D v s).B = s.B := rfl
@[simp] theorem setReg_D_C (v : Byte) (s : State) : (setReg .D v s).C = s.C := rfl
@[simp] theorem setReg_D_D (v : Byte) (s : State) : (setReg .D v s).D = v := rfl
@[simp] theorem setReg_D_E (v : Byte) (s : State) : (setReg .D v s).E = s.E := rfl
@[simp] theorem setReg_D_H (v : Byte) (s : State) : (setReg .D v s).H = s.H := rfl
@[simp] theorem setReg_D_L (v : Byte) (s : State) : (setReg .D v s).L = s.L := rfl
@[simp] theorem setReg_E_A (v : Byte) (s : State) : (setReg .E v s).A = s.A := rfl
@[simp] theorem setReg_E_B (v : Byte) (s : State) : (setReg .E v s).B = s.B := rfl
@[simp] theorem setReg_E_C (v : Byte) (s : State) : (setReg .E v s).C = s.C := rfl
@[simp] theorem setReg_E_D (v : Byte) (s : State) : (setReg .E v s).D = s.D := rfl
@[simp] theorem setReg_E_E (v : Byte) (s : State) : (setReg .E v s).E = v := rfl
@[simp] theorem setReg_E_H (v : Byte) (s : State) : (setReg .E v s).H = s.H := rfl
@[simp] theorem setReg_E_L (v : Byte) (s : State) : (setReg .E v s).L = s.L := rfl
@[simp] theorem setReg_H_A (v : Byte) (s : State) : (setReg .H v s).A = s.A := rfl
@[simp] theorem setReg_H_B (v : Byte) (s : State) : (setReg .H v s).B = s.B := rfl
@[simp] theorem setReg_H_C (v : Byte) (s : State) : (setReg .H v s).C = s.C := rfl
@[simp] theorem setReg_H_D (v : Byte) (s : State) : (setReg .H v s).D = s.D := rfl
@[simp] theorem setReg_H_E (v : Byte) (s : State) : (setReg .H v s).E = s.E := rfl
@[simp] theorem setReg_H_H (v : Byte) (s : State) : (setReg .H v s).H = v := rfl
@[simp] theorem setReg_H_L (v : Byte) (s : State) : (setReg .H v s).L = s.L := rfl
@[simp] theorem setReg_L_A (v : Byte) (s : State) : (setReg .L v s).A = s.A := rfl
@[simp] theorem setReg_L_B (v : Byte) (s : State) : (setReg .L v s).B = s.B := rfl
@[simp] theorem setReg_L_C (v : Byte) (s : State) : (setReg .L v s).C = s.C := rfl
@[simp] theorem setReg_L_D (v : Byte) (s : State) : (setReg .L v s).D = s.D := rfl
@[simp] theorem setReg_L_E (v : Byte) (s : State) : (setReg .L v s).E = s.E := rfl
@[simp] theorem setReg_L_H (v : Byte) (s : State) : (setReg .L v s).H = s.H := rfl
@[simp] theorem setReg_L_L (v : Byte) (s : State) : (setReg .L v s).L = v := rfl

@[simp] theorem getReg_setReg_same (r : Reg8) (v : Byte) (s : State) : getReg r (setReg r v s) = v := by
  cases r <;> rfl

theorem getReg_setReg_ne (r q : Reg8) (v : Byte) (s : State) (h : q ≠ r) :
    getReg q (setReg r v s) = getReg q s := by
  cases r <;> cases q <;> first | rfl | exact absurd rfl h

/-! ### Registers under the other updates -/

@[simp] theorem getReg_setSP (r : Reg8) (v : Word) (s : State) : getReg r (setSP v s) = getReg r s := by
  cases r <;> rfl

@[simp] theorem getReg_setPC (r : Reg8) (v : Word) (s : State) : getReg r (setPC v s) = getReg r s := by
  cases r <;> rfl

@[simp] theorem getReg_setF (r : Reg8) (f : Flags) (s : State) : getReg r (setF f s) = getReg r s := by
  cases r <;> rfl

@[simp] theorem getReg_setMem (r : Reg8) (m : Collaborator) (s : State) :
    getReg r (setMem m s) = getReg r s := by
  cases r <;> rfl

theorem getReg_commit_ne (r : Reg8) (a : Byte) (f : Flags) (pc : Word) (m : Collaborator) (s : State)
    (h : r ≠ .Acc) : getReg r (commit a f pc m s) = getReg r s := by
  cases r <;> first | rfl | exact absurd rfl h

/-! ### Pair views -/

@[simp] theorem getPair_BC (s : State) : getPair .BC s = s.B ++ s.C := rfl
@[simp] theorem getPair_DE (s : State) : getPair .DE s = s.D ++ s.E := rfl
@[simp] theorem getPair_HL (s : State) : getPair .HL s = s.H ++ s.L := rfl
@[simp] theorem setPair_F (p : Pair) (v : Word) (s : State) : (setPair p v s).F = s.F := by
  simp [setPair]
@[simp] theorem setPair_SP (p : Pair) (v : Word) (s : State) : (setPair p v s).SP = s.SP := by
  simp [setPair]
@[simp] theorem setPair_PC (p : Pair) (v : Word) (s : State) : (setPair p v s).PC = s.PC := by
  simp [setPair]
@[simp] theorem setPair_mem (p : Pair) (v : Word) (s : State) : (setPair p v s).mem = s.mem := by
  simp [setPair]

@[simp] theorem setPair_hi (p : Pair) (v : Word) (s : State) :
    getReg p.hi (setPair p v s) = v.extractLsb' 8 8 := by
  cases p <;> rfl

@[simp] theorem setPair_lo (p : Pair) (v : Word) (s : State) :
    getReg p.lo (setPair p v s) = v.extractLsb' 0 8 := by
  cases p <;> rfl

/-! ### Flags -/

@[simp] theorem Flags.get_set_same (x : FlagName) (t : Bool) (f : Flags) : (f.set x t).get x = t := by
  cases x <;> rfl

theorem Flags.get_set_ne (x y : FlagName) (t : Bool) (f : Flags) (h : y ≠ x) :
    (f.set x t).get y = f.get y := by
  cases x <;> cases y <;> first | rfl | exact absurd rfl h

/-- The low nibble of the flags byte reads zero (10_state.md R30). -/
theorem Flags.toByte_low_nibble (f : Flags) : f.toByte.extractLsb' 0 4 = 0#4 := by
  obtain ⟨z, n, h, c⟩ := f
  cases z <;> cases n <;> cases h <;> cases c <;> rfl

/-- The byte setter keeps the top nibble and drops the low one (10_state.md R39). -/
theorem Flags.toByte_ofByte (b : Byte) : (Flags.ofByte b).toByte = b &&& 0xF0 := by
  revert b; decide

end Sys2Proof.Machine
end

