-- ==== Sys2Proof/Laws/Ops.lean ====
section
/-! SUPPORT. One lemma per shared operation: what the ports, the resolver and Add can do. -/

namespace Sys2Proof.Machine

/-! ## The data port -/

/-- A ready answer is given whatever the collaborator holds. -/
theorem memRead_ready (m : Collaborator) (a : Word) (b : Byte) (rest : List Byte)
    (h : m.replies = b :: rest) : memRead m a = (b, { m with replies := rest }) := by
  simp [memRead, h]

/-- With no answer ready, the byte held is the answer. -/
theorem memRead_held (m : Collaborator) (a : Word) (b : Byte) (hr : m.replies = [])
    (h : Memory.read m.cells a.toNat = some b) : memRead m a = (b, m) := by
  simp [memRead, hr, h]

/-- With no answer ready and nothing held, the collaborator's own answer for such an address is given, and the
read has no side effect. -/
theorem memRead_unheld (m : Collaborator) (a : Word) (b : Byte) (hr : m.replies = [])
    (h : Memory.read m.cells a.toNat = none) (hu : m.unheld = some b) : memRead m a = (b, m) := by
  simp [memRead, hr, h, hu]

/-- Every data read has an answer of one of four kinds (20_memory.md R64: "It is total"). -/
theorem memRead_cases (m : Collaborator) (a : Word) :
    (∃ b rest, m.replies = b :: rest ∧ memRead m a = (b, { m with replies := rest })) ∨
    (∃ b, m.replies = [] ∧ Memory.read m.cells a.toNat = some b ∧ memRead m a = (b, m)) ∨
    (∃ b, m.replies = [] ∧ Memory.read m.cells a.toNat = none ∧ m.unheld = some b ∧ memRead m a = (b, m)) ∨
    (m.replies = [] ∧ Memory.read m.cells a.toNat = none ∧ m.unheld = none ∧
      memRead m a = (Config.openData m.freeIndex a, { m with freeIndex := m.freeIndex + 1 })) := by
  cases hr : m.replies with
  | cons b rest => exact .inl ⟨b, rest, rfl, memRead_ready m a b rest hr⟩
  | nil =>
    cases hc : Memory.read m.cells a.toNat with
    | some b => exact .inr (.inl ⟨b, rfl, rfl, memRead_held m a b hr hc⟩)
    | none =>
      cases hu : m.unheld with
      | some b => exact .inr (.inr (.inl ⟨b, rfl, rfl, rfl, memRead_unheld m a b hr hc hu⟩))
      | none => exact .inr (.inr (.inr ⟨rfl, rfl, rfl, by simp [memRead, hr, hc, hu]⟩))

/-- A data read never changes what the collaborator holds. -/
@[simp] theorem memRead_cells (m : Collaborator) (a : Word) : (memRead m a).2.cells = m.cells := by
  obtain ⟨_, _, _, h⟩ | ⟨_, _, _, h⟩ | ⟨_, _, _, _, h⟩ | ⟨_, _, _, h⟩ := memRead_cases m a <;> rw [h]

/-- A data read never changes how the collaborator answers for what it does not hold. -/
@[simp] theorem memRead_keeps_unheld (m : Collaborator) (a : Word) : (memRead m a).2.unheld = m.unheld := by
  obtain ⟨_, _, _, h⟩ | ⟨_, _, _, h⟩ | ⟨_, _, _, _, h⟩ | ⟨_, _, _, h⟩ := memRead_cases m a <;> rw [h]

/-- A data read takes at most the first ready answer. -/
theorem memRead_replies (m : Collaborator) (a : Word) : (memRead m a).2.replies = m.replies.tail := by
  obtain ⟨_, _, hr, h⟩ | ⟨_, hr, _, h⟩ | ⟨_, hr, _, _, h⟩ | ⟨hr, _, _, h⟩ := memRead_cases m a <;>
    simp [h, hr]

/-! ## The fetch port -/

/-- The reference memory answers its array on the fetch port, absent beyond it (20_memory.md R80). -/
theorem fetch_reference (M : List Byte) (a : Word) : fetch (Collaborator.reference M) a = M[a.toNat]? := by
  simpa [fetch, Collaborator.reference] using Memory.read_ofBytes M 0 a.toNat

/-- The second byte is absent past 0xFFFF whatever is held (20_memory.md R63). -/
@[simp] theorem fetchSecond_top (m : Collaborator) : fetchSecond m 0xFFFF = none := rfl

theorem fetchSecond_below (m : Collaborator) (pc : Word) (h : pc ≠ 0xFFFF) :
    fetchSecond m pc = fetch m (pc + 1) := if_neg h

/-- What the fetch window can be. -/
theorem fetchWindow_cases (s : State) :
    (fetch s.mem s.PC = none ∧ fetchWindow s = []) ∨
    (∃ b0, fetch s.mem s.PC = some b0 ∧ needsSecond b0 = false ∧ fetchWindow s = [b0]) ∨
    (∃ b0, fetch s.mem s.PC = some b0 ∧ needsSecond b0 = true ∧ fetchSecond s.mem s.PC = none ∧
      fetchWindow s = [b0]) ∨
    (∃ b0 b1, fetch s.mem s.PC = some b0 ∧ needsSecond b0 = true ∧ fetchSecond s.mem s.PC = some b1 ∧
      fetchWindow s = [b0, b1]) := by
  unfold fetchWindow
  cases h0 : fetch s.mem s.PC with
  | none => simp
  | some b0 =>
    cases hn : needsSecond b0 with
    | false => simp [hn]
    | true => cases h1 : fetchSecond s.mem s.PC <;> simp [hn]

/-! ## The resolver and Add -/

/-- The resolver changes nothing the collaborator holds. -/
@[simp] theorem resolve_cells (src : ArithSource) (s : State) : (resolve src s).2.cells = s.mem.cells := by
  cases src <;> simp [resolve]

/-- Only an indirect operand touches the collaborator. -/
theorem resolve_mem (src : ArithSource) (s : State) (h : src ≠ .indirect) : (resolve src s).2 = s.mem := by
  cases src <;> first | rfl | exact absurd rfl h

/-- Add always answers a next state, and this one (41_alu_add.md R150). -/
theorem executeAdd_next (src : ArithSource) (s : State) :
    executeAdd src s = .next (commit (addResult s.A (resolve src s).1) (addFlags s.A (resolve src s).1)
      (advancePC s.PC src.length) (resolve src s).2 s) := rfl

/-- `stopUnimplemented` never answers a next state. -/
theorem stopUnimplemented_ne_next (c : UnimplClass) (b0 : Byte) (b1 : Option Byte) (s t : State) :
    stopUnimplemented c b0 b1 s ≠ .next t := by simp [stopUnimplemented]

/-! ## Arithmetic of Add over the naturals -/

/-- The nine-bit sum does not wrap (41_alu_add.md R150). -/
theorem sum9_toNat (a v : Byte) : (sum9 a v).toNat = a.toNat + v.toNat := by
  have ha := a.isLt
  have hv := v.isLt
  simp only [sum9, BitVec.toNat_add, BitVec.toNat_setWidth]
  omega

/-- The result is the sum modulo 256 (41_alu_add.md R150). -/
theorem addResult_toNat (a v : Byte) : (addResult a v).toNat = (a.toNat + v.toNat) % 256 := by
  simp [addResult, BitVec.extractLsb'_toNat, sum9_toNat]

/-- The result is the sum of bytes. -/
theorem addResult_eq (a v : Byte) : addResult a v = a + v := by
  apply BitVec.eq_of_toNat_eq
  simp [addResult_toNat, BitVec.toNat_add]

end Sys2Proof.Machine
end

