-- ==== Sys2Proof/Laws/PerInstr.lean ====
section
/-! SUPPORT. The per-instruction family RoundTrip: decoding the bytes of a well-formed instruction, whatever
follows them, gives the instruction back. -/

namespace Sys2Proof.Laws.RoundTrip

/-- Decoding an encoded well-formed instruction gives it back. -/
def Statement (i : Instr) : Prop := i.wf = true → ∀ rest, decode (encode i ++ rest) = some i

/-- A row whose encoding is one byte that needs no second: it is enough to decode that byte alone. -/
theorem of_one_byte (i : Instr) (b0 : Byte) (he : encode i = [b0])
    (h : i.wf = true → needsSecond b0 = false ∧ decode [b0] = some i) : Statement i := by
  intro hw rest
  obtain ⟨h1, h2⟩ := h hw
  rw [he, List.cons_append, List.nil_append, decode_first_alone b0 rest h1, h2]

theorem addRegB : Statement .addRegB :=
  of_one_byte _ _ rfl (by decide)

theorem addRegC : Statement .addRegC :=
  of_one_byte _ _ rfl (by decide)

theorem addRegD : Statement .addRegD :=
  of_one_byte _ _ rfl (by decide)

theorem addRegE : Statement .addRegE :=
  of_one_byte _ _ rfl (by decide)

theorem addRegH : Statement .addRegH :=
  of_one_byte _ _ rfl (by decide)

theorem addRegL : Statement .addRegL :=
  of_one_byte _ _ rfl (by decide)

theorem addIndirect : Statement .addIndirect :=
  of_one_byte _ _ rfl (by decide)

theorem addRegAcc : Statement .addRegAcc :=
  of_one_byte _ _ rfl (by decide)

theorem addImmediate (n : Byte) : Statement (.addImmediate n) := fun _ _ => rfl

theorem block2Op1 (r : BitVec 3) : Statement (.block2Op1 r) :=
  of_one_byte _ _ rfl (by revert r; decide)

theorem block2Op2 (r : BitVec 3) : Statement (.block2Op2 r) :=
  of_one_byte _ _ rfl (by revert r; decide)

theorem block2Op3 (r : BitVec 3) : Statement (.block2Op3 r) :=
  of_one_byte _ _ rfl (by revert r; decide)

theorem block2Op4 (r : BitVec 3) : Statement (.block2Op4 r) :=
  of_one_byte _ _ rfl (by revert r; decide)

theorem block2Op5 (r : BitVec 3) : Statement (.block2Op5 r) :=
  of_one_byte _ _ rfl (by revert r; decide)

theorem block2Op6 (r : BitVec 3) : Statement (.block2Op6 r) :=
  of_one_byte _ _ rfl (by revert r; decide)

theorem block2Op7 (r : BitVec 3) : Statement (.block2Op7 r) :=
  of_one_byte _ _ rfl (by revert r; decide)

theorem block3ImmOp1 (n : Byte) : Statement (.block3ImmOp1 n) := fun _ _ => rfl

theorem block3ImmOp2 (n : Byte) : Statement (.block3ImmOp2 n) := fun _ _ => rfl

theorem block3ImmOp3 (n : Byte) : Statement (.block3ImmOp3 n) := fun _ _ => rfl

theorem block3ImmOp4 (n : Byte) : Statement (.block3ImmOp4 n) := fun _ _ => rfl

theorem block3ImmOp5 (n : Byte) : Statement (.block3ImmOp5 n) := fun _ _ => rfl

theorem block3ImmOp6 (n : Byte) : Statement (.block3ImmOp6 n) := fun _ _ => rfl

theorem block3ImmOp7 (n : Byte) : Statement (.block3ImmOp7 n) := fun _ _ => rfl

theorem prefixed (sel : Byte) : Statement (.prefixed sel) := fun _ _ => rfl

theorem block0 (b0 : Byte) : Statement (.block0 b0) :=
  of_one_byte _ b0 rfl (by revert b0; decide)

theorem block1 (b0 : Byte) : Statement (.block1 b0) :=
  of_one_byte _ b0 rfl (by revert b0; decide)

theorem block3OtherR0 (b0 : Byte) : Statement (.block3OtherR0 b0) :=
  of_one_byte _ b0 rfl (by revert b0; decide)

theorem block3OtherR1 (b0 : Byte) : Statement (.block3OtherR1 b0) :=
  of_one_byte _ b0 rfl (by revert b0; decide)

theorem block3OtherR2 (b0 : Byte) : Statement (.block3OtherR2 b0) :=
  of_one_byte _ b0 rfl (by revert b0; decide)

theorem block3OtherR4 (b0 : Byte) : Statement (.block3OtherR4 b0) :=
  of_one_byte _ b0 rfl (by revert b0; decide)

theorem block3OtherR5 (b0 : Byte) : Statement (.block3OtherR5 b0) :=
  of_one_byte _ b0 rfl (by revert b0; decide)

theorem block3OtherR7 (b0 : Byte) : Statement (.block3OtherR7 b0) :=
  of_one_byte _ b0 rfl (by revert b0; decide)

theorem block3OtherR3Op0 : Statement .block3OtherR3Op0 :=
  of_one_byte _ _ rfl (by decide)

theorem block3OtherR3Op2To3 (b0 : Byte) : Statement (.block3OtherR3Op2To3 b0) :=
  of_one_byte _ b0 rfl (by revert b0; decide)

theorem block3OtherR3Op4To7 (b0 : Byte) : Statement (.block3OtherR3Op4To7 b0) :=
  of_one_byte _ b0 rfl (by revert b0; decide)

end Sys2Proof.Laws.RoundTrip
end

