-- ==== Sys2Proof/Laws/Step.lean ====
section
/-! SUPPORT. What `exec` and a step can do, said once. -/

namespace Sys2Proof.Machine

/-- A row with semantics is executed as Add of its source; a row without stops with what its decode result
reports. -/
theorem exec_cases (i : Instr) (s : State) :
    (∃ src, i.source? = some src ∧ i = addOf src ∧ exec i s = executeAdd src s) ∨
    (∃ c b0 b1, i.source? = none ∧ i.result = .unimplemented c b0 b1 ∧
      exec i s = .refused (.unimplemented c b0 b1)) := by
  cases i <;>
    first
    | exact .inl ⟨_, rfl, rfl, rfl⟩
    | exact .inr ⟨_, _, _, rfl, rfl, rfl⟩

/-- A next state comes from an Add, and is the one Add writes. -/
theorem exec_next (i : Instr) (s t : State) (h : exec i s = .next t) :
    ∃ src, i.source? = some src ∧ i = addOf src ∧
      t = commit (addResult s.A (resolve src s).1) (addFlags s.A (resolve src s).1)
        (advancePC s.PC src.length) (resolve src s).2 s := by
  rcases exec_cases i s with ⟨src, h1, h2, h3⟩ | ⟨c, b0, b1, _, _, h3⟩
  · rw [h3, executeAdd_next] at h
    exact ⟨src, h1, h2, (Host.Outcome.next.inj h).symm⟩
  · rw [h3] at h; exact absurd h (by simp)

/-- What a step is, by what its window decodes to. -/
theorem step_of_decode (s : State) :
    (decode (fetchWindow s) = none ∧ step s = .fault .decodeInvalid) ∨
    (∃ i, decode (fetchWindow s) = some i ∧ step s = exec i s) := by
  unfold step
  cases h : decode (fetchWindow s) with
  | none => exact .inl ⟨rfl, rfl⟩
  | some i => exact .inr ⟨i, rfl, rfl⟩

/-- A step that answers a next state executed an Add. -/
theorem step_next (s t : State) (h : step s = .next t) :
    ∃ i src, decode (fetchWindow s) = some i ∧ i.source? = some src ∧ i = addOf src ∧
      t = commit (addResult s.A (resolve src s).1) (addFlags s.A (resolve src s).1)
        (advancePC s.PC src.length) (resolve src s).2 s := by
  rcases step_of_decode s with ⟨_, h2⟩ | ⟨i, h1, h2⟩
  · rw [h2] at h; exact absurd h (by simp)
  · obtain ⟨src, h3, h4, h5⟩ := exec_next i s t (h2 ▸ h)
    exact ⟨i, src, h1, h3, h4, h5⟩

end Sys2Proof.Machine
end

