-- ==== Sys2Proof/Tests/Slice0.lean ====
section
/-! SUPPORT. The model's own tests. Expected results come from the spec: the encodings of 30_encoding.md and
spec/opcode_table.json, and the vectors of 95_test_vectors.md. Last, a witness for every statement of
Certificates/Slice0/Obligations.lean that has hypotheses. -/

namespace Sys2Proof.Tests

open Sys2Proof.Machine

/-! ## Helpers -/

/-- The outcome is a next state with this property. -/
def nextWith (p : State → Bool) (o : Host.Outcome State Fault Refusal) : Bool :=
  match o with
  | .next t => p t
  | .fault _ => false
  | .refused _ => false

/-- The outcome is `DecodeInvalid`. -/
def isInvalid (o : Host.Outcome State Fault Refusal) : Bool :=
  match o with
  | .next _ => false
  | .fault r => r == .decodeInvalid
  | .refused _ => false

/-- The outcome is this refusal. -/
def isRefused (r : Refusal) (o : Host.Outcome State Fault Refusal) : Bool :=
  match o with
  | .next _ => false
  | .fault _ => false
  | .refused q => q == r

/-- A collaborator that holds these cells and has no answer ready. -/
def holding (cells : Memory) : Collaborator := { Collaborator.empty with cells := cells }

/-- The start state of 95_test_vectors.md 2.4, with these bytes at `PC` and 0xEF at 0x6677. -/
def vec (code : List Byte) : State where
  A := 0x11
  B := 0x22
  C := 0x33
  D := 0x44
  E := 0x55
  H := 0x66
  L := 0x77
  F := ⟨true, true, true, true⟩
  SP := 0xABCD
  PC := 0x0200
  mem := holding (Memory.ofBytes 0x0200 code ++ [(0x6677, 0xEF)])

/-- Reset with this `PC` and these cells. -/
def atPC (pc : Word) (cells : Memory) : State := { State.reset with PC := pc, mem := holding cells }

/-- After a step of `vec code`: `A`, `F`, `PC` as given and the rest as before. -/
def stepsTo (code : List Byte) (a f : Byte) (pc : Word) : Bool :=
  nextWith (fun t => t.A == a && t.F.toByte == f && t.PC == pc &&
    { t with A := 0x11, F := ⟨true, true, true, true⟩, PC := 0x0200 } == vec code) (step (vec code))

/-! ## WellFormed: an ill-formed term for each check -/

theorem test_wf_refuses_bytes_of_other_rows :
    (Instr.block0 0x40).wf = false ∧ (Instr.block1 0x80).wf = false ∧ (Instr.block3OtherR0 0xC1).wf = false ∧
    (Instr.block3OtherR1 0xC0).wf = false ∧ (Instr.block3OtherR2 0xC3).wf = false ∧
    (Instr.block3OtherR4 0xC5).wf = false ∧ (Instr.block3OtherR5 0x85).wf = false ∧
    (Instr.block3OtherR7 0xC6).wf = false ∧ (Instr.block3OtherR3Op2To3 0xCB).wf = false ∧
    (Instr.block3OtherR3Op4To7 0xD3).wf = false := by decide

theorem test_wf_accepts_bytes_of_the_row :
    (Instr.block0 0x3F).wf = true ∧ (Instr.block1 0x7F).wf = true ∧ (Instr.block3OtherR0 0xF8).wf = true ∧
    (Instr.block3OtherR3Op2To3 0xDB).wf = true ∧ (Instr.block3OtherR3Op4To7 0xFB).wf = true := by decide

/-! ## Decode: every constructor by a word written out from the spec's encoding -/

theorem test_decode_add :
    decode [0b10000000] = some .addRegB ∧ decode [0b10000001] = some .addRegC ∧
    decode [0b10000010] = some .addRegD ∧ decode [0b10000011] = some .addRegE ∧
    decode [0b10000100] = some .addRegH ∧ decode [0b10000101] = some .addRegL ∧
    decode [0b10000110] = some .addIndirect ∧ decode [0b10000111] = some .addRegAcc ∧
    decode [0b11000110, 0b10011111] = some (.addImmediate 0x9F) := by decide

theorem test_decode_block2_operations :
    decode [0b10001000] = some (.block2Op1 0) ∧ decode [0b10010001] = some (.block2Op2 1) ∧
    decode [0b10011010] = some (.block2Op3 2) ∧ decode [0b10100011] = some (.block2Op4 3) ∧
    decode [0b10101100] = some (.block2Op5 4) ∧ decode [0b10110101] = some (.block2Op6 5) ∧
    decode [0b10111110] = some (.block2Op7 6) ∧ decode [0b10111111] = some (.block2Op7 7) := by decide

theorem test_decode_block3_immediate_operations :
    decode [0b11001110, 0x01] = some (.block3ImmOp1 0x01) ∧
    decode [0b11010110, 0x02] = some (.block3ImmOp2 0x02) ∧
    decode [0b11011110, 0x03] = some (.block3ImmOp3 0x03) ∧
    decode [0b11100110, 0x04] = some (.block3ImmOp4 0x04) ∧
    decode [0b11101110, 0x05] = some (.block3ImmOp5 0x05) ∧
    decode [0b11110110, 0x06] = some (.block3ImmOp6 0x06) ∧
    decode [0b11111110, 0xFF] = some (.block3ImmOp7 0xFF) := by decide

theorem test_decode_other_rows :
    decode [0b11001011, 0x37] = some (.prefixed 0x37) ∧ decode [0b00000000] = some (.block0 0x00) ∧
    decode [0b00111111] = some (.block0 0x3F) ∧ decode [0b01000000] = some (.block1 0x40) ∧
    decode [0b01110110] = some (.block1 0x76) ∧ decode [0b11000000] = some (.block3OtherR0 0xC0) ∧
    decode [0b11001001] = some (.block3OtherR1 0xC9) ∧ decode [0b11001010] = some (.block3OtherR2 0xCA) ∧
    decode [0b11001100] = some (.block3OtherR4 0xCC) ∧ decode [0b11000101] = some (.block3OtherR5 0xC5) ∧
    decode [0b11111111] = some (.block3OtherR7 0xFF) ∧ decode [0b11000011] = some .block3OtherR3Op0 ∧
    decode [0b11010011] = some (.block3OtherR3Op2To3 0xD3) ∧
    decode [0b11011011] = some (.block3OtherR3Op2To3 0xDB) ∧
    decode [0b11100011] = some (.block3OtherR3Op4To7 0xE3) := by decide

/-- 95_test_vectors.md 2.2, the windows that are too short. -/
theorem test_decode_short_windows :
    decode [] = none ∧ decode [0xC6] = none ∧ decode [0xCE] = none ∧ decode [0xFE] = none ∧
    decode [0xCB] = none := by decide

/-- 95_test_vectors.md 2.2: an immediate may equal any opcode, and extra bytes are not looked at. -/
theorem test_decode_ignores_extra_bytes :
    decodeResult [0xC6, 0xC6] = .ok (.addImmediate 0xC6) 2 ∧ decodeResult [0x87, 0xFF] = .ok .addRegAcc 1 ∧
    decodeResult [0xC6, 0x01, 0x80] = .ok (.addImmediate 0x01) 2 := by decide

theorem test_decode_table_word :
    decodeTableWord 8 0x86 = some .addIndirect ∧ decodeTableWord 16 0x9FC6 = some (.addImmediate 0x9F) ∧
    decodeTableWord 8 0xC6 = some (.addImmediate 0x00) := by decide

/-! ## Add: one vector per instruction, full state (95_test_vectors.md 2.4) -/

theorem test_addRegB : stepsTo [0x80] 0x33 0x00 0x0201 = true := by decide
theorem test_addRegC : stepsTo [0x81] 0x44 0x00 0x0201 = true := by decide
theorem test_addRegD : stepsTo [0x82] 0x55 0x00 0x0201 = true := by decide
theorem test_addRegE : stepsTo [0x83] 0x66 0x00 0x0201 = true := by decide
theorem test_addRegH : stepsTo [0x84] 0x77 0x00 0x0201 = true := by decide
theorem test_addRegL : stepsTo [0x85] 0x88 0x00 0x0201 = true := by decide
theorem test_addIndirect : stepsTo [0x86] 0x00 0xB0 0x0201 = true := by decide
theorem test_addRegAcc : stepsTo [0x87] 0x22 0x00 0x0201 = true := by decide
theorem test_addImmediate : stepsTo [0xC6, 0x9F] 0xB0 0x20 0x0202 = true := by decide

/-- 95_test_vectors.md 2.4, the column of reads; the pair is assembled high byte first. -/
theorem test_reads_of_a_step :
    stepReads (vec [0x80]) = [.fetch 0x0200] ∧
    stepReads (vec [0x86]) = [.fetch 0x0200, .data 0x6677] ∧
    stepReads (vec [0xC6, 0x9F]) = [.fetch 0x0200, .fetch 0x0201] ∧
    stepReads (vec [0xBE]) = [.fetch 0x0200] := by decide

/-- 95_test_vectors.md 2.3, rows of the Add function. -/
theorem test_add_function :
    ([(0x00, 0x00, 0x00, 0x80), (0xAB, 0x00, 0xAB, 0x00), (0x00, 0xFF, 0xFF, 0x00), (0xF0, 0x0F, 0xFF, 0x00),
      (0x0F, 0x01, 0x10, 0x20), (0x08, 0x08, 0x10, 0x20), (0x7F, 0x01, 0x80, 0x20), (0x10, 0xF1, 0x01, 0x10),
      (0xE1, 0xE1, 0xC2, 0x10), (0x02, 0xFF, 0x01, 0x30), (0xFF, 0xFF, 0xFE, 0x30), (0x10, 0xF0, 0x00, 0x90),
      (0x80, 0x80, 0x00, 0x90), (0xFF, 0x01, 0x00, 0xB0), (0x01, 0xFF, 0x00, 0xB0), (0x3A, 0xC6, 0x00, 0xB0),
      (0x8F, 0x71, 0x00, 0xB0)] : List (Byte × Byte × Byte × Byte)).all
      (fun x => addResult x.1 x.2.1 == x.2.2.1 && (addFlags x.1 x.2.1).toByte == x.2.2.2) = true := by decide

/-- 95_test_vectors.md P4, step 1: an operand that points into the code. -/
theorem test_indirect_reads_the_code :
    nextWith (fun t => t.A == 0xC6 && t.F.toByte == 0x00 && t.PC == 0x0001)
      (step (setPair .HL 0x0001 (setMem (.reference [0x86, 0xC6, 0x7A, 0x00]) State.reset))) = true := by decide

/-- 20_memory.md R80: the data port of the reference memory answers 0x00 at and beyond its length, the fetch
port nothing. -/
theorem test_reference_memory_beyond_its_length :
    nextWith (fun t => t.A == 0x11 && t.F.toByte == 0x00 && t.mem == .reference [0x86])
      (step { vec [] with PC := 0x0000, mem := .reference [0x86] }) = true ∧
    memRead (.reference [0x86]) 0x0001 = (0x00, .reference [0x86]) ∧
    isInvalid (step (setPC 0x0001 (setMem (.reference [0x86]) State.reset))) = true := by decide

/-! ## `PC` and the fetch window (95_test_vectors.md 2.5, P6) -/

theorem test_pc_wraps_after_one_byte :
    nextWith (fun t => t.PC == 0x0000) (step (atPC 0xFFFF [(0xFFFF, 0x80)])) = true := by decide

theorem test_pc_wraps_after_two_bytes :
    nextWith (fun t => t.PC == 0x0000) (step (atPC 0xFFFE [(0xFFFE, 0xC6), (0xFFFF, 0x01)])) = true := by decide

theorem test_window_does_not_wrap :
    isInvalid (step (atPC 0xFFFF [(0x0000, 0x55), (0xFFFF, 0xC6)])) = true ∧
    isInvalid (step (atPC 0xFFFF [(0x0000, 0x55), (0xFFFF, 0xCB)])) = true ∧
    stepReads (atPC 0xFFFF [(0x0000, 0x55), (0xFFFF, 0xC6)]) = [.fetch 0xFFFF] := by decide

theorem test_truncated_stream :
    isInvalid (step (atPC 0x0005 [(0x0004, 0xC6)])) = true ∧ isInvalid (step (atPC 0x0004 [(0x0004, 0xC6)])) = true ∧
    stepReads (atPC 0x0004 [(0x0004, 0xC6)]) = [.fetch 0x0004, .fetch 0x0005] := by decide

/-! ## Rows without semantics (95_test_vectors.md 2.2, 2.6) -/

theorem test_unimplemented_one_byte :
    isRefused (.unimplemented .block0 0x00 none) (step (vec [0x00])) = true ∧
    isRefused (.unimplemented .block1 0x76 none) (step (vec [0x76])) = true ∧
    isRefused (.unimplemented .block2Op 0x90 none) (step (vec [0x90])) = true ∧
    isRefused (.unimplemented .block2Op 0xBE none) (step (vec [0xBE])) = true ∧
    isRefused (.unimplemented .block3Other 0xC3 none) (step (vec [0xC3])) = true ∧
    isRefused (.unimplemented .block3Other 0xFF none) (step (vec [0xFF])) = true := by decide

theorem test_unimplemented_two_bytes :
    isRefused (.unimplemented .block3ImmOp 0xD6 (some 0x01)) (step (vec [0xD6, 0x01])) = true ∧
    isRefused (.unimplemented .prefixed 0xCB (some 0x11)) (step (vec [0xCB, 0x11])) = true ∧
    isInvalid (step (vec [0xD6])) = true ∧ isInvalid (step (vec [0xCB])) = true := by decide

/-! ## Accessors (95_test_vectors.md 2.1) -/

theorem test_pair_accessors :
    getPair .BC (setPair .BC 0xCAFE State.reset) = 0xCAFE ∧ (setPair .BC 0xCAFE State.reset).B = 0xCA ∧
    (setPair .BC 0xCAFE State.reset).C = 0xFE ∧ getPair .DE (setReg .E 0x34 (setReg .D 0x12 State.reset)) = 0x1234 ∧
    getPair .HL (setReg .L 0xFF (setPair .HL 0x1234 State.reset)) = 0x12FF ∧
    getPair .BC (setPair .DE 0xBEEF (setPair .BC 0xCAFE State.reset)) = 0xCAFE := by decide

theorem test_flag_accessors :
    (Flags.ofByte 0xFF).toByte = 0xF0 ∧ (Flags.ofByte 0x0F).toByte = 0x00 ∧ (Flags.ofByte 0xB7).toByte = 0xB0 ∧
    (Flags.set .Z true Flags.zero).toByte = 0x80 ∧ (Flags.set .C true (Flags.ofByte 0x80)).toByte = 0x90 ∧
    (Flags.set .Z false (Flags.ofByte 0x90)).toByte = 0x10 ∧
    (Flags.set .N true (Flags.set .H true (Flags.ofByte 0x10))).toByte = 0x70 ∧
    (Flags.set .N false (Flags.ofByte 0x70)).toByte = 0x30 := by decide

/-! ## The host's entry points -/

theorem test_withFetchWord_runs_first :
    nextWith (fun t => t.A == 0x9F && t.PC == 0x0002) (step (State.reset.withFetchWord 16 0x9FC6)) = true ∧
    nextWith (fun t => t.F.toByte == 0x80 && t.PC == 0x0001) (step (State.reset.withFetchWord 8 0x85)) = true ∧
    isRefused (.unimplemented .block0 0x00 none) (step (State.reset.withFetchWord 8 0x00)) = true := by decide

/-- 70_reset_and_hazards.md R242: nothing held at 0x0000. -/
theorem test_reset_steps_to_decodeInvalid : isInvalid (step State.reset) = true := by decide

/-! ## Witnesses: hypotheses of the statements, met together -/

theorem witness_FirstStepFetchesAtResetOrSetPC : fetch Collaborator.empty 0x0000 = none := by decide

theorem witness_PairViewsSplitAndJoin : Pair.DE ≠ Pair.BC ∧ Pair.HL ≠ Pair.BC := by decide

theorem witness_RegisterAccessorsAreIndependent : Reg8.B ≠ Reg8.Acc := by decide

theorem witness_RegisterCodeTableIsShared :
    (0x80 ≤ (0x80 : Byte).toNat ∧ (0x80 : Byte).toNat ≤ 0x87) ∧
    (0x80 ≤ (0x87 : Byte).toNat ∧ (0x87 : Byte).toNat ≤ 0x87) := by decide

theorem witness_AluRegisterFormatIsOneByte :
    (blkOf 0x80 = 2 ∧ opOf 0x80 = 0) ∧ (blkOf 0x87 = 2 ∧ opOf 0x87 = 0) ∧ (blkOf 0x88 = 2 ∧ opOf 0x88 ≠ 0) ∧
    (blkOf 0xBF = 2 ∧ opOf 0xBF ≠ 0) := by decide

theorem witness_AluImmediateFormatIsTwoBytes :
    (blkOf 0xC6 = 3 ∧ rOf 0xC6 = 6 ∧ opOf 0xC6 = 0) ∧ (blkOf 0xCE = 3 ∧ rOf 0xCE = 6 ∧ opOf 0xCE ≠ 0) ∧
    (blkOf 0xFE = 3 ∧ rOf 0xFE = 6 ∧ opOf 0xFE ≠ 0) := by decide

theorem witness_StepRunsTheDecodedInstruction_one_byte :
    let s := atPC 0xFFFF [(0xFFFF, 0x87)]
    fetch s.mem s.PC = some 0x87 ∧ ¬ Claims.TwoByteFormat (0x87 : Byte).toNat ∧
    decode [0x87] = some .addRegAcc := by
  unfold Claims.TwoByteFormat; decide

theorem witness_StepRunsTheDecodedInstruction_two_bytes :
    let s := atPC 0xFFFE [(0xFFFE, 0xC6), (0xFFFF, 0x01)]
    fetch s.mem s.PC = some 0xC6 ∧ Claims.TwoByteFormat (0xC6 : Byte).toNat ∧ s.PC ≠ 0xFFFF ∧
    fetch s.mem (s.PC + 1) = some 0x01 ∧ decode [0xC6, 0x01] = some (.addImmediate 0x01) := by
  unfold Claims.TwoByteFormat; decide

theorem witness_PlacedInstructionRunsNext :
    (State.reset.PC ≠ 0xFFFF ∧ decodeTableWord 16 0x01C6 = some (.addImmediate 0x01)) ∧
    ((atPC 0xFFFF []).PC = 0xFFFF ∧ decode [BitVec.ofNat 8 (0x80 % 2 ^ 8)] = some .addRegB) ∧
    (0x0002 ≠ State.reset.PC ∧ 0x0002 ≠ State.reset.PC + 1) ∧
    ((atPC 0xFFFF []).PC = 0xFFFF ∧ 0x0000 ≠ (atPC 0xFFFF []).PC) := by decide

theorem witness_StepEndsInOneOfThreeOutcomes :
    decodeResult (fetchWindow (vec [0x80])) = .ok .addRegB 1 ∧
    decodeResult (fetchWindow State.reset) = .invalid ∧
    decodeResult (fetchWindow (vec [0xFF])) = .unimplemented .block3Other 0xFF none := by decide

theorem witness_FetchWindowStopsAtTheTop :
    let s := atPC 0xFFFF [(0x0000, 0x55), (0xFFFF, 0xC6)]
    s.PC = 0xFFFF ∧ fetch s.mem 0xFFFF = some 0xC6 ∧ Claims.TwoByteFormat (0xC6 : Byte).toNat := by
  unfold Claims.TwoByteFormat; decide

theorem witness_StepReadsInOrder :
    fetch State.reset.mem State.reset.PC = none ∧
    (fetch (vec [0xFE, 0x00]).mem (vec [0xFE, 0x00]).PC = some 0xFE ∧ Claims.TwoByteFormat (0xFE : Byte).toNat ∧
      (vec [0xFE, 0x00]).PC ≠ 0xFFFF) ∧
    (fetch (atPC 0xFFFF [(0xFFFF, 0xCB)]).mem 0xFFFF = some 0xCB ∧ Claims.TwoByteFormat (0xCB : Byte).toNat ∧
      (atPC 0xFFFF [(0xFFFF, 0xCB)]).PC = 0xFFFF) ∧
    fetch (vec [0x86]).mem (vec [0x86]).PC = some 0x86 ∧
    (fetch (vec [0xBE]).mem (vec [0xBE]).PC = some 0xBE ∧ ¬ Claims.TwoByteFormat (0xBE : Byte).toNat ∧
      (0xBE : Byte) ≠ 0x86) := by
  unfold Claims.TwoByteFormat; decide

/-- Two collaborators that hold different bytes at 0x0005 and answer the step's two reads alike. -/
theorem witness_StepDependsOnlyOnWhatItReads :
    let m1 : Collaborator := ⟨[(0, 0x86), (5, 0x01)], [0x07], none, 0⟩
    let m2 : Collaborator := ⟨[(0, 0x86), (5, 0x02)], [0x07, 0x08], some 0x09, 3⟩
    m1 ≠ m2 ∧
    (∀ a, PortRead.fetch a ∈ stepReads (setMem m1 State.reset) → fetch m1 a = fetch m2 a) ∧
    (∀ a, PortRead.data a ∈ stepReads (setMem m1 State.reset) → (memRead m1 a).1 = (memRead m2 a).1) := by
  have h : stepReads (setMem ⟨[(0, 0x86), (5, 0x01)], [0x07], none, 0⟩ State.reset) = [.fetch 0, .data 0] := by decide
  refine ⟨by decide, fun a ha => ?_, fun a _ => rfl⟩
  rw [h] at ha
  simp only [List.mem_cons, PortRead.fetch.injEq, reduceCtorEq, List.not_mem_nil, or_false] at ha
  subst ha; decide

theorem witness_NonOkStepRepeats :
    (∀ t, step State.reset ≠ .next t) ∧ ∀ t, step (vec [0x00]) ≠ .next t := by
  have h1 : isInvalid (step State.reset) = true := by decide
  have h2 : isRefused (.unimplemented .block0 0x00 none) (step (vec [0x00])) = true := by decide
  exact ⟨fun t h => by rw [h] at h1; exact Bool.noConfusion h1,
    fun t h => by rw [h] at h2; exact Bool.noConfusion h2⟩

/-- The stops of `witness_NonOkStepRepeats` with another state that agrees on what is fetched, and the ways on:
another `PC` with an Add there, a byte where none was held, a second byte where only the first was. -/
theorem witness_NonOkStepRepeats_clauses :
    (setReg .Acc 0xFF (setF Flags.zero (vec [0x00]))).PC = (vec [0x00]).PC ∧
    (let s := atPC 0x0000 [(0x0000, 0x00), (0x0001, 0x80), (0xFFFE, 0xC6), (0xFFFF, 0x01)]
     isRefused (.unimplemented .block0 0x00 none) (step s) = true ∧
     fetch s.mem 0x0001 = (encode (addOf (.reg .B))).head? ∧
     fetch s.mem 0xFFFE = (encode (addOf (.immediate 0x01))).head? ∧
     (0xFFFE : Word) ≠ 0xFFFF ∧ fetch s.mem (0xFFFE + 1) = some 0x01) ∧
    (fetch State.reset.mem State.reset.PC = none ∧ decode [0x80] = some .addRegB) ∧
    (fetch (vec [0xC6]).mem (vec [0xC6]).PC = some 0xC6 ∧ isInvalid (step (vec [0xC6])) = true ∧
      fetch (vec [0xC6]).mem ((vec [0xC6]).PC + 1) = none ∧ (vec [0xC6]).PC ≠ 0xFFFF ∧
      Claims.TwoByteFormat (0xC6 : Byte).toNat ∧ decode [0xC6, 0x9F] = some (.addImmediate 0x9F)) := by
  unfold Claims.TwoByteFormat; decide

theorem witness_ResolverReadsItsSource : fetch (vec [0x86]).mem (vec [0x86]).PC = some 0x86 := by decide

theorem witness_FlagsAreWrittenByAddAndReadByNothing :
    (accessState (.setF 0x10) State.reset).F ≠ State.reset.F ∧
    (accessState .clearF (vec [])).F ≠ (vec []).F ∧
    (accessState (.setFlag .C true) State.reset).F ≠ State.reset.F ∧
    (accessState (.clearFlag .Z) (vec [])).F ≠ (vec []).F := by decide

theorem witness_AddOfARegisterWholeEffect_fetch :
    fetch (vec [0x80]).mem (vec [0x80]).PC = some 0x80 ∧ fetch (vec [0x81]).mem (vec [0x81]).PC = some 0x81 ∧
    fetch (vec [0x82]).mem (vec [0x82]).PC = some 0x82 ∧ fetch (vec [0x83]).mem (vec [0x83]).PC = some 0x83 ∧
    fetch (vec [0x84]).mem (vec [0x84]).PC = some 0x84 ∧ fetch (vec [0x85]).mem (vec [0x85]).PC = some 0x85 := by
  decide

theorem witness_AddOfARegisterWholeEffect_examples :
    (State.reset.B = 0x00 ∧ State.reset.A = 0x00 ∧ State.reset.L = 0x00) ∧
    (∃ s : State, s.A = 0xE1 ∧ s.B = 0xE1) ∧ (∃ s : State, s.A = 0x0F ∧ s.C = 0x01) ∧
    (∃ s : State, s.A = 0x10 ∧ s.D = 0xF0) ∧ (∃ s : State, s.A = 0x7F ∧ s.E = 0x01) ∧
    ∃ s : State, s.A = 0xF0 ∧ s.H = 0x0F :=
  ⟨⟨rfl, rfl, rfl⟩, ⟨setReg .B 0xE1 (setReg .Acc 0xE1 State.reset), rfl, rfl⟩,
   ⟨setReg .C 0x01 (setReg .Acc 0x0F State.reset), rfl, rfl⟩,
   ⟨setReg .D 0xF0 (setReg .Acc 0x10 State.reset), rfl, rfl⟩,
   ⟨setReg .E 0x01 (setReg .Acc 0x7F State.reset), rfl, rfl⟩,
   ⟨setReg .H 0x0F (setReg .Acc 0xF0 State.reset), rfl, rfl⟩⟩

theorem witness_AddOfTheAccumulatorDoubles : fetch (vec [0x87]).mem (vec [0x87]).PC = some 0x87 := by decide

theorem witness_AddOfTheIndirectByteWholeEffect : fetch (vec [0x86]).mem (vec [0x86]).PC = some 0x86 := by decide

theorem witness_AddOfTheIndirectByteForEveryAnswer :
    (setMem ⟨[(0x6677, 0xEF)], [0x01, 0x02], some 0x00, 0⟩ (vec [])).mem.replies = 0x01 :: [0x02] := by decide

theorem witness_AddOfAnImmediateWholeEffect :
    (fetch (vec [0xC6, 0x9F]).mem (vec [0xC6, 0x9F]).PC = some 0xC6 ∧ (vec [0xC6, 0x9F]).PC ≠ 0xFFFF ∧
      fetch (vec [0xC6, 0x9F]).mem ((vec [0xC6, 0x9F]).PC + 1) = some 0x9F) ∧
    (fetch (vec [0xC6]).mem (vec [0xC6]).PC = some 0xC6 ∧ Claims.SecondAbsent (vec [0xC6])) ∧
    (fetch (atPC 0xFFFF [(0xFFFF, 0xC6)]).mem 0xFFFF = some 0xC6 ∧
      Claims.SecondAbsent (atPC 0xFFFF [(0xFFFF, 0xC6)])) ∧
    (setReg .Acc 0xFF State.reset).A = 0xFF := by
  unfold Claims.SecondAbsent; decide

theorem witness_AddAdvancesPCByItsLength :
    (fetch (atPC 0xFFFF [(0xFFFF, 0x80)]).mem (atPC 0xFFFF [(0xFFFF, 0x80)]).PC = some 0x80 ∧
      0x80 ≤ (0x80 : Byte).toNat ∧ (0x80 : Byte).toNat ≤ 0x87) ∧
    (fetch (vec [0x87]).mem (vec [0x87]).PC = some 0x87 ∧ 0x80 ≤ (0x87 : Byte).toNat ∧
      (0x87 : Byte).toNat ≤ 0x87) ∧
    (fetch (atPC 0xFFFE [(0xFFFE, 0xC6), (0xFFFF, 0x01)]).mem 0xFFFE = some 0xC6 ∧
      ¬ Claims.SecondAbsent (atPC 0xFFFE [(0xFFFE, 0xC6), (0xFFFF, 0x01)])) := by
  unfold Claims.SecondAbsent; decide

/-- For OkStepLeavesOneOfSevenFlagBytes, StepKeepsInvariant and InstructionsLeaveTheRestUnchanged: steps and executions that answer a next state. -/
theorem witness_next_states :
    (∃ t, step (vec [0x80]) = .next t) ∧ (∃ t, exec .addIndirect (vec []) = .next t) ∧
    (∃ t, exec .addRegB (vec []) = .next t ∧ Instr.addRegB ≠ .addIndirect) :=
  ⟨⟨_, rfl⟩, ⟨_, rfl⟩, ⟨_, rfl, by decide⟩⟩

theorem witness_StepKeepsInvariant : StateInv (vec [0x80]) := by decide

/-- For RunsNeverLoadOtherRegisters and RunsAdvancePCSequentially: two OK steps. -/
theorem witness_RunsOk : ∃ t, RunsOk 2 (atPC 0xFFFF [(0x0000, 0x87), (0xFFFF, 0x80)]) t := ⟨_, rfl⟩

/-- For FlagsLowNibbleIsAlwaysZero and EveryReachableStateMeetsInvariant. -/
theorem witness_Reachable :
    Reachable (session [.collab (.hold 0 0x87), .access (.setReg .Acc 0x80), .step] State.reset) := ⟨_, rfl⟩

theorem witness_refused_classes :
    (fetch (vec [0x00]).mem (vec [0x00]).PC = some 0x00 ∧ (0x00 : Byte).toNat ≤ 0x3F) ∧
    (fetch (vec [0x3F]).mem (vec [0x3F]).PC = some 0x3F ∧ (0x3F : Byte).toNat ≤ 0x3F) ∧
    (fetch (vec [0x40]).mem (vec [0x40]).PC = some 0x40 ∧ 0x40 ≤ (0x40 : Byte).toNat ∧ (0x40 : Byte).toNat ≤ 0x7F) ∧
    (fetch (vec [0x7F]).mem (vec [0x7F]).PC = some 0x7F ∧ 0x40 ≤ (0x7F : Byte).toNat ∧ (0x7F : Byte).toNat ≤ 0x7F) ∧
    (fetch (vec [0x88]).mem (vec [0x88]).PC = some 0x88 ∧ 0x88 ≤ (0x88 : Byte).toNat ∧ (0x88 : Byte).toNat ≤ 0xBF) ∧
    (fetch (vec [0xBF]).mem (vec [0xBF]).PC = some 0xBF ∧ 0x88 ≤ (0xBF : Byte).toNat ∧ (0xBF : Byte).toNat ≤ 0xBF) ∧
    (fetch (vec [0xC0]).mem (vec [0xC0]).PC = some 0xC0 ∧ 0xC0 ≤ (0xC0 : Byte).toNat ∧
      (0xC0 : Byte).toNat % 8 ≠ 6 ∧ (0xC0 : Byte).toNat ≠ 0xCB) ∧
    (fetch (vec [0xFF]).mem (vec [0xFF]).PC = some 0xFF ∧ 0xC0 ≤ (0xFF : Byte).toNat ∧
      (0xFF : Byte).toNat % 8 ≠ 6 ∧ (0xFF : Byte).toNat ≠ 0xCB) := by decide

theorem witness_refused_two_byte_forms :
    (fetch (vec [0xCE]).mem (vec [0xCE]).PC = some 0xCE ∧ (0xCE : Byte).toNat ∈ [0xCE, 0xD6, 0xDE, 0xE6, 0xEE, 0xF6, 0xFE] ∧
      Claims.SecondAbsent (vec [0xCE])) ∧
    (fetch (vec [0xFE, 0x00]).mem (vec [0xFE, 0x00]).PC = some 0xFE ∧
      (0xFE : Byte).toNat ∈ [0xCE, 0xD6, 0xDE, 0xE6, 0xEE, 0xF6, 0xFE] ∧ (vec [0xFE, 0x00]).PC ≠ 0xFFFF ∧
      fetch (vec [0xFE, 0x00]).mem ((vec [0xFE, 0x00]).PC + 1) = some 0x00) ∧
    (fetch (vec [0xCB]).mem (vec [0xCB]).PC = some 0xCB ∧ Claims.SecondAbsent (vec [0xCB])) ∧
    (fetch (vec [0xCB, 0xFF]).mem (vec [0xCB, 0xFF]).PC = some 0xCB ∧ (vec [0xCB, 0xFF]).PC ≠ 0xFFFF ∧
      fetch (vec [0xCB, 0xFF]).mem ((vec [0xCB, 0xFF]).PC + 1) = some 0xFF) := by
  unfold Claims.SecondAbsent; decide

theorem witness_CollaboratorChangesAreSeenAtOnce :
    (0x0001 : Word) ≠ 0x0000 ∧ (State.reset.mem.replies = [] ∧ fetch State.reset.mem 0x0000 = none) ∧
    (turn (.collab (.ready 0x07)) State.reset).mem.replies = 0x07 :: [] := by decide

theorem witness_CanonicalMemoriesAreEqualData :
    Memory.wf [(0x0000, 0x01), (0xFFFF, 0x02)] ∧
    Memory.wf (Memory.put (Memory.put [] 0xFFFF 0x02) 0x0000 0x01) ∧
    ∀ a, a < 65536 → Memory.read [(0x0000, 0x01), (0xFFFF, 0x02)] a =
      Memory.read (Memory.put (Memory.put [] 0xFFFF 0x02) 0x0000 0x01) a :=
  ⟨by decide, by decide, fun _ _ => rfl⟩

theorem witness_ReferenceMemoryAnswersItsArray :
    (([0x86, 0xC6] : List Byte).length ≤ 65536 ∧ (0x0001 : Word).toNat < ([0x86, 0xC6] : List Byte).length ∧
      ([0x86, 0xC6] : List Byte).length ≤ (0x0002 : Word).toNat ∧
      ([0x86, 0xC6] : List Byte).length ≤ (0xFFFF : Word).toNat) ∧
    ∃ t, RunsOk 1 (setMem (.reference [0x86, 0xC6]) State.reset) t :=
  ⟨by decide, _, rfl⟩

end Sys2Proof.Tests
end

/-! # Family 00_scope: when a step is OK, and what it depends on -/

namespace Sys2Proof

/-! ## The decoder on the windows a step can fetch -/

/-- A lone first byte of a two-byte format is a window too short (30_encoding.md R105). -/
theorem decode_single_of_needsSecond (b0 : Byte) (h : needsSecond b0 = true) : decode [b0] = none := by
  revert b0; decide

/-- The two-byte formats: 0xCB, and ALU-I by its operation field (30_encoding.md R92, R97). -/
theorem decode_pair_of_needsSecond (b0 b1 : Byte) (h : needsSecond b0 = true) :
    decode [b0, b1] = some (if b0 = 0xCB#8 then .prefixed b1 else decodeBlock3Imm (opOf b0) b1) := by
  by_cases hcb : b0 = 0xCB#8
  · simp [decode, hcb]
  · obtain ⟨hblk, hr⟩ : blkOf b0 = 3#2 ∧ rOf b0 = 6 := by simpa [needsSecond, hcb] using h
    simp [decode, hcb, hblk, hr, decodeBlock3]

/-- Of the ALU-I operations only operation 0 has semantics (30_encoding.md R97). -/
theorem decodeBlock3Imm_hasSource_iff (op : BitVec 3) (n : Byte) :
    (decodeBlock3Imm op n).source?.isSome ↔ op = 0#3 := by
  by_cases hop : op = 0#3
  · subst hop; simp [decodeBlock3Imm]
  · have hnone : (decodeBlock3Imm op n).source? = none := by
      unfold decodeBlock3Imm
      split
      · exact absurd rfl hop
      all_goals rfl
    simp [hnone, hop]

/-- The one-byte formats with semantics are 0x80 to 0x87 (30_encoding.md R96). -/
theorem decode_single_hasSource_iff (b0 : Byte) (h : needsSecond b0 = false) :
    ((decode [b0]).bind Instr.source?).isSome ↔ 0x80 ≤ b0.toNat ∧ b0.toNat ≤ 0x87 := by
  revert b0; decide

/-- The one two-byte format with semantics is 0xC6 (30_encoding.md R97). -/
theorem decode_pair_hasSource_iff (b0 b1 : Byte) (h : needsSecond b0 = true) :
    ((decode [b0, b1]).bind Instr.source?).isSome ↔ b0.toNat = 0xC6 := by
  rw [decode_pair_of_needsSecond b0 b1 h, Option.bind_some]
  by_cases hcb : b0 = 0xCB#8
  · subst hcb; simp [Instr.source?]
  · have hop : opOf b0 = 0#3 ↔ b0.toNat = 0xC6 := by clear b1; revert b0; decide
    rw [if_neg hcb, decodeBlock3Imm_hasSource_iff, hop]

theorem ne_C6_of_not_needsSecond (b0 : Byte) (h : needsSecond b0 = false) : b0.toNat ≠ 0xC6 := by
  revert b0; decide

theorem not_80_to_87_of_needsSecond (b0 : Byte) (h : needsSecond b0 = true) :
    ¬ (0x80 ≤ b0.toNat ∧ b0.toNat ≤ 0x87) := by
  revert b0; decide

end Sys2Proof

namespace Sys2Proof.Machine

/-! ## When a step is OK -/

theorem step_of_decode_none (s : State) (h : decode (fetchWindow s) = none) :
    step s = .fault .decodeInvalid := by
  simp [step, h]

theorem step_of_decode_some (s : State) (i : Instr) (h : decode (fetchWindow s) = some i) :
    step s = exec i s := by
  simp [step, h]

/-- The second byte is present exactly below the top of memory with a byte held at `PC + 1`
(20_memory.md R63). -/
theorem fetchSecond_ne_none_iff (m : Collaborator) (pc : Word) :
    fetchSecond m pc ≠ none ↔ pc ≠ 0xFFFF ∧ fetch m (pc + 1) ≠ none := by
  by_cases hpc : pc = 0xFFFF
  · exact iff_of_false (fun h => h (by rw [hpc, fetchSecond_top])) fun h => h.1 hpc
  · rw [fetchSecond_below m pc hpc, and_iff_right hpc]

/-- A step is OK exactly if its window decodes to a row with semantics. -/
theorem step_isNext_iff_hasSource (s : State) :
    (∃ t, step s = .next t) ↔ ((decode (fetchWindow s)).bind Instr.source?).isSome := by
  constructor
  · rintro ⟨t, ht⟩
    obtain ⟨i, src, hdec, hsrc, -, -⟩ := step_next s t ht
    simp [hdec, hsrc]
  · intro h
    rcases step_of_decode s with ⟨hdec, -⟩ | ⟨i, hdec, hstep⟩
    · simp [hdec] at h
    · rcases exec_cases i s with ⟨src, -, -, hexec⟩ | ⟨_, _, _, hsrc, -, -⟩
      · exact ⟨_, by rw [hstep, hexec, executeAdd_next]⟩
      · simp [hdec, hsrc] at h

/-- Settles O24, by the four forms of the fetch window. -/
theorem okExactlyForTheAddOpcodes : Obligations.OkExactlyForTheAddOpcodes := by
  intro s
  simp only [step_isNext_iff_hasSource, ← fetchSecond_ne_none_iff]
  rcases fetchWindow_cases s with ⟨h0, hw⟩ | ⟨b0, h0, hn, hw⟩ | ⟨b0, h0, hn, h1, hw⟩ | ⟨b0, b1, h0, hn, h1, hw⟩
  · simp [hw, h0]
  · rw [hw, decode_single_hasSource_iff b0 hn]
    simp [h0, ne_C6_of_not_needsSecond b0 hn]
  · rw [hw, decode_single_of_needsSecond b0 hn]
    simp [h0, h1, not_80_to_87_of_needsSecond b0 hn]
  · rw [hw, decode_pair_hasSource_iff b0 b1 hn]
    simp [h0, h1, not_80_to_87_of_needsSecond b0 hn]

/-! ## The reads of a step -/

/-- What the fetch reads can be (20_memory.md R75, reads 1 and 2). -/
theorem fetchReads_cases (s : State) :
    fetchReads s = [.fetch s.PC] ∨ fetchReads s = [.fetch s.PC, .fetch (s.PC + 1)] := by
  unfold fetchReads
  split
  · exact .inl rfl
  · split
    · exact .inr rfl
    · exact .inl rfl

/-- The byte at `PC` is always read. -/
theorem fetch_PC_mem_fetchReads (s : State) : .fetch s.PC ∈ fetchReads s := by
  rcases fetchReads_cases s with h | h <;> simp [h]

/-- Below the top of memory a two-byte format reads its second byte. -/
theorem fetch_second_mem_fetchReads (s : State) (b0 : Byte) (h0 : fetch s.mem s.PC = some b0)
    (hn : needsSecond b0 = true) (hpc : s.PC ≠ 0xFFFF) : .fetch (s.PC + 1) ∈ fetchReads s := by
  simp [fetchReads, h0, hn, show s.PC ≠ 65535#16 from hpc]

/-- What the data reads can be (20_memory.md R75, read 3). -/
theorem dataReads_cases (s : State) : dataReads s = [] ∨ dataReads s = [.data (getPair .HL s)] := by
  unfold dataReads
  split
  · exact .inr rfl
  · exact .inl rfl

/-- A window that decodes to Add(Indirect) reads the byte at `HL`. -/
theorem data_HL_mem_stepReads (s : State) (i : Instr) (hdec : decode (fetchWindow s) = some i)
    (hsrc : i.source? = some .indirect) : .data (getPair .HL s) ∈ stepReads s := by
  simp [stepReads, dataReads, hdec, hsrc]

/-! ## States that agree on what is fetched -/

section Agreement

-- The two states have one `PC`, and `u` answers the fetch reads of `s` as `s` does.
variable {s u : State} (hpc : u.PC = s.PC)
  (hf : ∀ a, .fetch a ∈ fetchReads s → fetch u.mem a = fetch s.mem a)

include hpc hf

/-- They fetch the same window. -/
theorem fetchWindow_eq_of_agree : fetchWindow u = fetchWindow s := by
  have h0 : fetch u.mem u.PC = fetch s.mem s.PC := by rw [hpc, hf _ (fetch_PC_mem_fetchReads s)]
  have h1 : ∀ b0, fetch s.mem s.PC = some b0 → needsSecond b0 = true →
      fetchSecond u.mem u.PC = fetchSecond s.mem s.PC := by
    intro b0 hb0 hn
    rw [hpc]
    by_cases htop : s.PC = 0xFFFF
    · rw [htop, fetchSecond_top, fetchSecond_top]
    · rw [fetchSecond_below _ _ htop, fetchSecond_below _ _ htop,
        hf _ (fetch_second_mem_fetchReads s b0 hb0 hn htop)]
  unfold fetchWindow
  rw [h0]
  cases hb0 : fetch s.mem s.PC with
  | none => rfl
  | some b0 =>
    cases hn : needsSecond b0 with
    | false => simp [hn]
    | true => simp [hn, h1 b0 hb0 hn]

/-- They issue the same fetch reads. -/
theorem fetchReads_eq_of_agree : fetchReads u = fetchReads s := by
  have h0 : fetch u.mem s.PC = fetch s.mem s.PC := hf _ (fetch_PC_mem_fetchReads s)
  simp only [fetchReads, hpc, h0]

end Agreement

/-- States with the same window and the same `HL` issue the same data reads. -/
theorem dataReads_eq_of_window {s u : State} (hw : fetchWindow u = fetchWindow s)
    (hHL : getPair .HL u = getPair .HL s) : dataReads u = dataReads s := by
  simp only [dataReads, hw, hHL]

/-! ## The core's part of the outcome -/

/-- An operand's value is the collaborator's only where the operand is indirect (40_step_and_operands.md
R136). -/
theorem resolve_fst_setMem_eq (src : ArithSource) (s : State) (m1 m2 : Collaborator)
    (h : src = .indirect → (memRead m1 (getPair .HL s)).1 = (memRead m2 (getPair .HL s)).1) :
    (resolve src (setMem m2 s)).1 = (resolve src (setMem m1 s)).1 := by
  cases src with
  | reg x => simp [resolve]
  | immediate n => rfl
  | indirect => exact (h rfl).symm

/-- With the collaborator left out, Add shows its operand's value and nothing else of the collaborator. -/
theorem coreOutcome_executeAdd_setMem (src : ArithSource) (s : State) (m : Collaborator) :
    Claims.coreOutcome (executeAdd src (setMem m s)) =
      .next (commit (addResult s.A (resolve src (setMem m s)).1) (addFlags s.A (resolve src (setMem m s)).1)
        (advancePC s.PC src.length) Collaborator.empty s) := rfl

/-- A row with semantics is executed as Add of its source. -/
theorem exec_of_source (i : Instr) (src : ArithSource) (s : State) (h : i.source? = some src) :
    exec i s = executeAdd src s := by
  rcases exec_cases i s with ⟨src', hsrc, -, hexec⟩ | ⟨_, _, _, hsrc, -, -⟩
  · obtain rfl : src' = src := Option.some.inj (hsrc ▸ h)
    exact hexec
  · simp [hsrc] at h

/-- A row without semantics stops alike in every state (42_unimplemented.md R187). -/
theorem exec_eq_of_noSource (i : Instr) (s u : State) (h : i.source? = none) : exec i u = exec i s := by
  have hstop : ∀ v, ∃ c b0 b1, i.result = .unimplemented c b0 b1 ∧
      exec i v = .refused (.unimplemented c b0 b1) := by
    intro v
    rcases exec_cases i v with ⟨_, hsrc, -, -⟩ | ⟨c, b0, b1, -, hres, hexec⟩
    · simp [hsrc] at h
    · exact ⟨c, b0, b1, hres, hexec⟩
  obtain ⟨c, b0, b1, hres, hs⟩ := hstop s
  obtain ⟨c', b0', b1', hres', hu⟩ := hstop u
  obtain ⟨rfl, rfl, rfl⟩ := DecodeResult.unimplemented.inj (hres ▸ hres')
  rw [hs, hu]

/-- What the core shows of one instruction is the same with two collaborators that answer its data read
alike. -/
theorem coreOutcome_exec_setMem_eq (i : Instr) (s : State) (m1 m2 : Collaborator)
    (h : i.source? = some .indirect → (memRead m1 (getPair .HL s)).1 = (memRead m2 (getPair .HL s)).1) :
    Claims.coreOutcome (exec i (setMem m2 s)) = Claims.coreOutcome (exec i (setMem m1 s)) := by
  cases hsrc : i.source? with
  | none => rw [exec_eq_of_noSource i (setMem m1 s) (setMem m2 s) hsrc]
  | some src =>
    have hval := resolve_fst_setMem_eq src s m1 m2 fun hind => h (hind ▸ hsrc)
    rw [exec_of_source i src _ hsrc, exec_of_source i src _ hsrc, coreOutcome_executeAdd_setMem,
      coreOutcome_executeAdd_setMem, hval]

/-- Settles O27: agreement on the fetches fixes the window, hence the instruction and its reads; agreement on the
data read then fixes the operand. -/
theorem stepDependsOnlyOnWhatItReads : Obligations.StepDependsOnlyOnWhatItReads := by
  refine ⟨fun s m1 m2 hfetch hdata => ?_, fun s => ⟨fetchReads s, dataReads s, rfl, ?_⟩⟩
  · have hagree : ∀ a, .fetch a ∈ fetchReads (setMem m1 s) →
        fetch (setMem m2 s).mem a = fetch (setMem m1 s).mem a :=
      fun a ha => (hfetch a (List.mem_append_left _ ha)).symm
    have hw := fetchWindow_eq_of_agree (s := setMem m1 s) (u := setMem m2 s) rfl hagree
    constructor
    · rw [stepReads, stepReads, fetchReads_eq_of_agree (s := setMem m1 s) (u := setMem m2 s) rfl hagree,
        dataReads_eq_of_window hw rfl]
    · cases hdec : decode (fetchWindow (setMem m1 s)) with
      | none => rw [step_of_decode_none (setMem m1 s) hdec, step_of_decode_none (setMem m2 s) (hw ▸ hdec)]
      | some i =>
        rw [step_of_decode_some (setMem m1 s) i hdec, step_of_decode_some (setMem m2 s) i (hw ▸ hdec)]
        exact coreOutcome_exec_setMem_eq i s m1 m2 fun hsrc =>
          hdata _ (data_HL_mem_stepReads (setMem m1 s) i hdec hsrc)
  · rcases fetchReads_cases s with hf | hf <;> rcases dataReads_cases s with hd | hd <;> simp [hf, hd]

end Sys2Proof.Machine

/-! # Family 10_state: registers, pair views, flags, and what an instruction leaves of them -/

namespace Sys2Proof.Machine

/-! ## Pair views -/

/-- A pair view reads its first-named register as the high byte (10_state.md R21). -/
theorem getPair_toNat (p : Pair) (s : State) :
    (getPair p s).toNat = (getReg p.hi s).toNat * 256 + (getReg p.lo s).toNat := by
  have hlo := (getReg p.lo s).isLt
  rw [getPair, BitVec.toNat_append, ← Nat.shiftLeft_add_eq_or_of_lt hlo, Nat.shiftLeft_eq]

/-- The high byte of a word, over the naturals (10_state.md R22). -/
theorem extract_high_byte (v : Word) : v.extractLsb' 8 8 = BitVec.ofNat 8 (v.toNat / 256) := by
  apply BitVec.eq_of_toNat_eq
  simp [BitVec.extractLsb'_toNat, Nat.shiftRight_eq_div_pow]

/-- The low byte of a word, over the naturals (10_state.md R22). -/
theorem extract_low_byte (v : Word) : v.extractLsb' 0 8 = BitVec.ofNat 8 (v.toNat % 256) := by
  apply BitVec.eq_of_toNat_eq
  simp [BitVec.extractLsb'_toNat]

/-- A pair write is the two register writes of its bytes, over the naturals (10_state.md R22). -/
theorem setPair_eq (p : Pair) (v : Word) (s : State) :
    setPair p v s =
      setReg p.lo (BitVec.ofNat 8 (v.toNat % 256)) (setReg p.hi (BitVec.ofNat 8 (v.toNat / 256)) s) := by
  rw [setPair, extract_high_byte, extract_low_byte]

/-- A pair reads back what was written to it (10_state.md R23). -/
theorem getPair_setPair_same (p : Pair) (v : Word) (s : State) : getPair p (setPair p v s) = v := by
  apply BitVec.eq_of_toNat_eq
  have hv := v.isLt
  rw [getPair_toNat, setPair_hi, setPair_lo, extract_high_byte, extract_low_byte]
  simp only [BitVec.toNat_ofNat]
  omega

theorem Pair.hi_ne_lo (p : Pair) : p.hi ≠ p.lo := by cases p <;> decide

/-- Two different pairs have no register in common (10_state.md R21). -/
theorem Pair.registers_disjoint (p q : Pair) (h : q ≠ p) :
    q.hi ≠ p.hi ∧ q.hi ≠ p.lo ∧ q.lo ≠ p.hi ∧ q.lo ≠ p.lo := by
  revert h
  cases p <;> cases q <;> decide

/-- The accumulator belongs to no pair (10_state.md R33). -/
theorem Pair.registers_ne_Acc (p : Pair) : p.hi ≠ .Acc ∧ p.lo ≠ .Acc := by cases p <;> decide

/-- A register outside a pair does not show in its view. -/
theorem getPair_setReg_ne (p : Pair) (r : Reg8) (v : Byte) (s : State) (hhi : p.hi ≠ r) (hlo : p.lo ≠ r) :
    getPair p (setReg r v s) = getPair p s := by
  rw [getPair, getReg_setReg_ne r _ v s hhi, getReg_setReg_ne r _ v s hlo, getPair]

theorem getPair_setPair_ne (p q : Pair) (v : Word) (s : State) (h : q ≠ p) :
    getPair q (setPair p v s) = getPair q s := by
  obtain ⟨hhh, hhl, hlh, hll⟩ := Pair.registers_disjoint p q h
  rw [setPair, getPair_setReg_ne q _ _ _ hhl hll, getPair_setReg_ne q _ _ _ hhh hlh]

/-- Settles O5: the views are defined on the two registers, so each clause is a read after a register write. -/
theorem pairViewsSplitAndJoin : Obligations.PairViewsSplitAndJoin := by
  refine ⟨fun s => ⟨getPair_toNat .BC s, getPair_toNat .DE s, getPair_toNat .HL s⟩,
    fun v s => ⟨setPair_eq .BC v s, setPair_eq .DE v s, setPair_eq .HL v s⟩, getPair_setPair_same,
    getPair_setPair_ne, fun p h l s => ⟨?_, ?_⟩, fun p v s => ?_, fun _ _ _ => ⟨rfl, rfl, rfl⟩⟩
  · rw [getPair, getReg_setReg_ne p.lo p.hi _ _ p.hi_ne_lo, getReg_setReg_same, getReg_setReg_same]
  · rw [getPair, getReg_setReg_ne p.hi p.lo _ _ p.hi_ne_lo.symm, getReg_setReg_same, getReg_setReg_same]
  · obtain ⟨hhi, hlo⟩ := p.registers_ne_Acc
    exact getPair_setReg_ne p .Acc v s hhi hlo

/-! ## The flags byte -/

/-- Which flag stands at which bit of the byte (10_state.md R29). -/
theorem Flags.toByte_getLsbD (f : Flags) (k : Nat) : f.toByte.getLsbD k =
    if k = 7 then f.Z else if k = 6 then f.N else if k = 5 then f.H else if k = 4 then f.C else false := by
  by_cases hk : k < 8
  · obtain ⟨z, n, h, c⟩ := f
    revert k z n h c
    decide
  · rw [BitVec.getLsbD_of_ge _ _ (by omega)]
    simp only [show k ≠ 7 ∧ k ≠ 6 ∧ k ≠ 5 ∧ k ≠ 4 by omega, if_false]

/-- The low nibble of the byte, over the naturals (10_state.md R30). -/
theorem Flags.toByte_toNat_mod (f : Flags) : f.toByte.toNat % 16 = 0 := by
  simpa [BitVec.extractLsb'_toNat] using congrArg BitVec.toNat f.toByte_low_nibble

/-- No flag set is the byte 0x00 (10_state.md R39, R42). -/
theorem Flags.toByte_zero : Flags.zero.toByte = 0x00 := by decide

/-- The byte setter stores the top nibble, over the naturals (10_state.md R39). -/
theorem Flags.toByte_ofByte_eq (b : Byte) : (Flags.ofByte b).toByte = BitVec.ofNat 8 (b.toNat / 16 * 16) := by
  revert b; decide

theorem Flags.toByte_ofByte_toNat (b : Byte) : (Flags.ofByte b).toByte.toNat = b.toNat / 16 * 16 := by
  have hb := b.isLt
  rw [Flags.toByte_ofByte_eq, BitVec.toNat_ofNat]
  omega

/-- Bits 7 to 4 take a write and bits 3 to 0 do not (10_state.md R29, R39). -/
theorem Flags.toByte_ofByte_getLsbD (b : Byte) (k : Nat) :
    (Flags.ofByte b).toByte.getLsbD k = if k < 4 then false else b.getLsbD k := by
  rw [Flags.toByte_getLsbD]
  by_cases hk : k < 8
  · interval_cases k <;> rfl
  · rw [BitVec.getLsbD_of_ge b k (by omega)]
    simp only [show k ≠ 7 ∧ k ≠ 6 ∧ k ≠ 5 ∧ k ≠ 4 by omega, if_false, ite_self]

/-- The values of `F` are the bytes with a zero low nibble (10_state.md R29). -/
theorem Flags.exists_toByte_eq_iff (b : Byte) : (∃ f : Flags, f.toByte = b) ↔ b.toNat % 16 = 0 := by
  constructor
  · rintro ⟨f, rfl⟩
    exact f.toByte_toNat_mod
  · intro h
    refine ⟨Flags.ofByte b, BitVec.eq_of_toNat_eq ?_⟩
    rw [Flags.toByte_ofByte_toNat]
    omega

/-- Settles O8, from the position of each flag in the byte. -/
theorem flagPositionsInTheByte : Obligations.FlagPositionsInTheByte :=
  ⟨Flags.toByte_getLsbD, Flags.exists_toByte_eq_iff, fun b _ k => Flags.toByte_ofByte_getLsbD b k,
    Flags.toByte_zero⟩

/-- A flag's own accessor reads the bit at its position (10_state.md R40). -/
theorem Flags.toByte_getLsbD_bit (x : FlagName) (f : Flags) : f.toByte.getLsbD x.bit = f.get x := by
  rw [Flags.toByte_getLsbD]
  cases x <;> rfl

/-- A flag's setter writes the bit at its position and no other (10_state.md R40). -/
theorem Flags.toByte_set_getLsbD (x : FlagName) (t : Bool) (f : Flags) (k : Nat) :
    (f.set x t).toByte.getLsbD k = if k = x.bit then t else f.toByte.getLsbD k := by
  simp only [Flags.toByte_getLsbD]
  cases x <;> grind [Flags.set, FlagName.bit]

/-- Writing the flags back undoes a change of the flags alone. -/
@[simp] theorem setF_setF (f g : Flags) (s : State) : setF f (setF g s) = setF f s := rfl

@[simp] theorem setF_self (s : State) : setF s.F s = s := rfl

/-- Settles O10, from what a flag's setter writes of the byte. -/
theorem flagAccessorsTouchOneBit : Obligations.FlagAccessorsTouchOneBit := by
  refine fun x t s k => ⟨?_, Flags.toByte_set_getLsbD x t s.F k, Flags.toByte_set_getLsbD x false s.F k, ?_, ?_⟩
  · rw [Flags.toByte_getLsbD_bit]; rfl
  · rw [accessState, setF_setF, setF_self]
  · rw [accessState, setF_setF, setF_self]

/-! ## The flags of Add over the naturals -/

theorem addZ_iff (a v : Byte) : addZ a v = true ↔ (a.toNat + v.toNat) % 256 = 0 := by
  rw [addZ, beq_iff_eq, ← BitVec.toNat_inj, addResult_toNat]; rfl

theorem addC_iff (a v : Byte) : addC a v = true ↔ 255 < a.toNat + v.toNat := by
  have ha := a.isLt
  have hv := v.isLt
  rw [addC, BitVec.getLsbD, sum9_toNat, Nat.testBit_eq_decide_div_mod_eq, decide_eq_true_iff]
  omega

/-- Half-Carry is the comparison of the low nibbles of result and operand (41_alu_add.md R151). -/
theorem addH_iff_lt (a v : Byte) : addH a v = true ↔ (addResult a v).toNat % 16 < v.toNat % 16 := by
  simp [addH, BitVec.lt_def, BitVec.extractLsb'_toNat]

/-- Half-Carry is a carry out of bit 3 (10_state.md R31, 41_alu_add.md R152). -/
theorem addH_iff_carry (a v : Byte) : addH a v = true ↔ 15 < a.toNat % 16 + v.toNat % 16 := by
  rw [addH_iff_lt, addResult_toNat]
  omega

/-- `Add(src)` answers this next state, for every source. -/
theorem exec_addOf (src : ArithSource) (s : State) :
    exec (addOf src) s = .next (commit (addResult s.A (resolve src s).1) (addFlags s.A (resolve src s).1)
      (advancePC s.PC src.length) (resolve src s).2 s) := by
  rw [exec_of_source (addOf src) src s (addOf_source src), executeAdd_next]

/-! ## What reads and what writes the flags -/

theorem resolve_setF (src : ArithSource) (f : Flags) (s : State) : resolve src (setF f s) = resolve src s := by
  cases src <;> simp [resolve]

/-- No instruction reads the flags: Add overwrites them, a row without semantics stops alike everywhere
(10_state.md R31). -/
theorem exec_setF (i : Instr) (f : Flags) (s : State) : exec i (setF f s) = exec i s := by
  cases hsrc : i.source? with
  | none => exact exec_eq_of_noSource i s (setF f s) hsrc
  | some src =>
    rw [exec_of_source i src _ hsrc, exec_of_source i src _ hsrc, executeAdd_next, executeAdd_next, resolve_setF]
    rfl

/-- Of the accessors only the flag setters change the flags (10_state.md R31). -/
theorem accessState_F_ne (q : Access) (s : State) (h : (accessState q s).F ≠ s.F) :
    (∃ b, q = .setF b) ∨ q = .clearF ∨ (∃ x t, q = .setFlag x t) ∨ ∃ x, q = .clearFlag x := by
  cases q with
  | setF b => exact .inl ⟨b, rfl⟩
  | clearF => exact .inr (.inl rfl)
  | setFlag x t => exact .inr (.inr (.inl ⟨x, t, rfl⟩))
  | clearFlag x => exact .inr (.inr (.inr ⟨x, rfl⟩))
  | _ => exact absurd (by simp [accessState]) h

/-- Settles O31, from the frame of the flags under each instruction and accessor and from Add's flags over the
naturals. -/
theorem flagsAreWrittenByAddAndReadByNothing : Obligations.FlagsAreWrittenByAddAndReadByNothing :=
  ⟨fun i s f => exec_setF i f s,
    fun src s => ⟨_, exec_addOf src s, addZ_iff _ _, rfl, addH_iff_carry _ _, addH_iff_lt _ _, addC_iff _ _⟩,
    accessState_F_ne, fun _ _ => rfl, rfl⟩

/-! ## The frame of an instruction -/

/-- The fetch port answers by the bytes held alone. -/
theorem fetch_eq_of_cells {m n : Collaborator} (h : m.cells = n.cells) (a : Word) : fetch m a = fetch n a := by
  rw [fetch, fetch, h]

/-- An instruction's writes show in no pair view (10_state.md R32). -/
@[simp] theorem getPair_commit (p : Pair) (a : Byte) (f : Flags) (pc : Word) (m : Collaborator) (s : State) :
    getPair p (commit a f pc m s) = getPair p s := by
  cases p <;> rfl

/-- Settles O42: a next state is what Add writes, and only an indirect operand touches the collaborator. -/
theorem instructionsLeaveTheRestUnchanged : Obligations.InstructionsLeaveTheRestUnchanged := by
  intro i s t hexec
  obtain ⟨src, hsrc, rfl, rfl⟩ := exec_next i s t hexec
  refine ⟨fun r hr => getReg_commit_ne r _ _ _ _ s hr, rfl, fun p => getPair_commit p _ _ _ _ s,
    fetch_eq_of_cells (resolve_cells src s), fun hi => resolve_mem src s ?_, fun hi => ?_⟩
  · rintro rfl
    exact hi rfl
  · obtain rfl : src = .indirect := Option.some.inj (hsrc.symm.trans (congrArg Instr.source? hi))
    exact memRead_replies s.mem (getPair .HL s)

/-! ## The low bits of the flags byte over a session -/

/-- The bits the byte setter drops do not matter (10_state.md R39). -/
theorem Flags.ofByte_clearLow (b : Byte) : Flags.ofByte (BitVec.ofNat 8 (b.toNat / 16 * 16)) = Flags.ofByte b := by
  revert b; decide

/-- No turn depends on the low bits it writes to `F`. -/
theorem turn_clearLowFlagBits (x : Turn) (s : State) : turn (Claims.clearLowFlagBits x) s = turn x s := by
  unfold Claims.clearLowFlagBits
  split
  · rename_i b
    exact congrArg (setF · s) (Flags.ofByte_clearLow b)
  · rfl

theorem session_map_clearLowFlagBits (ts : List Turn) (s : State) :
    session (ts.map Claims.clearLowFlagBits) s = session ts s := by
  induction ts generalizing s with
  | nil => rfl
  | cons x ts ih => rw [List.map_cons, session, session, turn_clearLowFlagBits, ih]

/-- The flags byte Add leaves, from its operands alone (41_alu_add.md R150). -/
theorem addFlags_toByte_eq (a v : Byte) : (addFlags a v).toByte = BitVec.ofNat 8
    ((if (a.toNat + v.toNat) % 256 = 0 then 128 else 0) +
      (if 15 < a.toNat % 16 + v.toNat % 16 then 32 else 0) + if 255 < a.toNat + v.toNat then 16 else 0) := by
  simp only [← addZ_iff, ← addH_iff_carry, ← addC_iff, addFlags]
  cases addZ a v <;> cases addH a v <;> cases addC a v <;> rfl

/-- Settles O55: the byte has no low bits in any state, the setter drops them turn by turn, and Add's byte is
the sum of its flags. -/
theorem flagsLowNibbleIsAlwaysZero : Obligations.FlagsLowNibbleIsAlwaysZero :=
  ⟨fun t _ => ⟨_, rfl, t.F.toByte_toNat_mod⟩, fun b _ => congrArg Answer.byte (Flags.toByte_ofByte_eq b),
    session_map_clearLowFlagBits,
    fun src s => ⟨_, exec_addOf src s, congrArg Answer.byte (addFlags_toByte_eq _ _)⟩⟩

/-! ## Reset -/

/-- The first read of a step is the fetch at `PC` (20_memory.md R75, read 1). -/
theorem stepReads_head? (s : State) : (stepReads s).head? = some (.fetch s.PC) := by
  rcases fetchReads_cases s with h | h <;> simp [stepReads, h]

/-- Settles O1, register by register and pair by pair. -/
theorem resetLeavesEveryRegisterZero : Obligations.ResetLeavesEveryRegisterZero := by
  refine ⟨fun r => ?_, Flags.toByte_zero, rfl, rfl, fun p => ?_, fun m => stepReads_head? (setMem m State.reset)⟩
  · cases r <;> rfl
  · cases p <;> rfl

/-! ## The accessors -/

/-- Settles O6: the accessors are the register reads and writes. -/
theorem registerAccessorsAreIndependent : Obligations.RegisterAccessorsAreIndependent := by
  intro r q v s
  refine ⟨rfl, rfl, ?_, fun h => ?_, setReg_F r v s, setReg_SP r v s, setReg_PC r v s, setReg_mem r v s⟩
  · exact congrArg Answer.byte (getReg_setReg_same r v s)
  · exact congrArg Answer.byte (getReg_setReg_ne r q v s h)

/-- Settles O7: each counter is a field of its own. -/
theorem counterAccessorsAreTotal : Obligations.CounterAccessorsAreTotal :=
  fun _ _ => ⟨rfl, rfl, rfl, rfl, rfl, rfl⟩

/-- Settles O9, from what the byte setter stores. -/
theorem flagsByteSetterStoresTopNibble : Obligations.FlagsByteSetterStoresTopNibble :=
  fun b _ => ⟨Flags.toByte_ofByte_toNat b, Flags.toByte_zero, rfl, rfl, Flags.toByte_ofByte_eq 0xFF,
    Flags.toByte_ofByte_eq 0x0F, Flags.toByte_ofByte_eq 0xB7⟩

end Sys2Proof.Machine

/-! # Family 20_memory: the invariant, the reads of a step, and what the collaborator answers -/

namespace Sys2Proof

/-! ## The decoder on the formats of R75 -/

/-- The formats `R75` names over the naturals are those whose second byte is fetched (20_memory.md R75). -/
theorem twoByteFormat_iff_needsSecond (b0 : Byte) : Claims.TwoByteFormat b0.toNat ↔ needsSecond b0 = true := by
  unfold Claims.TwoByteFormat
  revert b0; decide

theorem not_twoByteFormat_iff (b0 : Byte) : ¬ Claims.TwoByteFormat b0.toNat ↔ needsSecond b0 = false := by
  rw [twoByteFormat_iff_needsSecond, Bool.not_eq_true]

/-- Of the one-byte formats only 0x86 has the indirect source (30_encoding.md R95, R96). -/
theorem decode_single_indirect_iff (b0 : Byte) (h : needsSecond b0 = false) :
    (decode [b0]).bind Instr.source? = some .indirect ↔ b0 = 0x86 := by
  revert b0; decide

/-- An ALU-I row has no source but its literal byte (30_encoding.md R98). -/
theorem decodeBlock3Imm_source_ne_indirect (op : BitVec 3) (n : Byte) :
    (decodeBlock3Imm op n).source? ≠ some .indirect := by
  unfold decodeBlock3Imm
  split
  · rw [addOf_source, fromLiteral]
    simp
  all_goals simp [Instr.source?]

/-- No two-byte format has the indirect source (30_encoding.md R97, R98). -/
theorem decode_pair_source_ne_indirect (b0 b1 : Byte) (h : needsSecond b0 = true) :
    (decode [b0, b1]).bind Instr.source? ≠ some .indirect := by
  rw [decode_pair_of_needsSecond b0 b1 h, Option.bind_some]
  split
  · simp [Instr.source?]
  · exact decodeBlock3Imm_source_ne_indirect (opOf b0) b1

theorem ne_86_of_needsSecond (b0 : Byte) (h : needsSecond b0 = true) : b0 ≠ 0x86 := by
  rintro rfl
  exact absurd h (by decide)

end Sys2Proof

namespace Sys2Proof.Machine

/-! ## Every turn keeps the invariant -/

/-- The low nibble of the flags has no storage, so only the memory can break the invariant (10_state.md R30). -/
theorem stateInv_iff_cells_wf (s : State) : StateInv s ↔ Memory.wf s.mem.cells :=
  and_iff_left s.F.toByte_low_nibble

/-- An OK step stores nothing (20_memory.md R66). -/
theorem step_next_cells {s t : State} (h : step s = .next t) : t.mem.cells = s.mem.cells := by
  obtain ⟨_, src, -, -, -, rfl⟩ := step_next s t h
  exact resolve_cells src s

/-- A step of any outcome stores nothing. -/
@[simp] theorem turn_step_cells (s : State) : (turn .step s).mem.cells = s.mem.cells := by
  rw [turn]
  cases hstep : step s with
  | next t => exact step_next_cells hstep
  | fault r => rfl
  | refused r => rfl

/-- No accessor reaches the collaborator (10_state.md R36 to R40). -/
@[simp] theorem accessState_mem (q : Access) (s : State) : (accessState q s).mem = s.mem := by
  cases q <;> simp [accessState]

theorem turn_cells_wf (x : Turn) (s : State) (h : Memory.wf s.mem.cells) : Memory.wf (turn x s).mem.cells := by
  cases x with
  | step => rwa [turn_step_cells]
  | access q => rwa [turn, accessState_mem]
  | collab c => exact collabAfter_wf c s.mem h

/-- Settles O54: the invariant is the memory's canonical form, which only a change inside the collaborator touches,
and that keeps it. -/
theorem stepKeepsInvariant : Obligations.StepKeepsInvariant := by
  refine ⟨fun s t hs hstep => ?_, fun s x hs => ?_⟩
  · rw [stateInv_iff_cells_wf] at hs ⊢
    rwa [step_next_cells hstep]
  · rw [stateInv_iff_cells_wf] at hs ⊢
    exact turn_cells_wf x s hs

/-! ## The reads of one step -/

theorem fetchReads_of_absent (s : State) (h0 : fetch s.mem s.PC = none) : fetchReads s = [.fetch s.PC] := by
  simp [fetchReads, h0]

theorem fetchReads_of_one_byte (s : State) (b0 : Byte) (h0 : fetch s.mem s.PC = some b0)
    (hn : needsSecond b0 = false) : fetchReads s = [.fetch s.PC] := by
  simp [fetchReads, h0, hn]

theorem fetchReads_of_two_bytes (s : State) (b0 : Byte) (h0 : fetch s.mem s.PC = some b0)
    (hn : needsSecond b0 = true) (hpc : s.PC ≠ 0xFFFF) : fetchReads s = [.fetch s.PC, .fetch (s.PC + 1)] := by
  simp [fetchReads, h0, hn, show s.PC ≠ 65535#16 from hpc]

/-- The window does not go past the top, and no read goes out there (20_memory.md R63). -/
theorem fetchReads_at_top (s : State) (hpc : s.PC = 0xFFFF) : fetchReads s = [.fetch s.PC] := by
  unfold fetchReads
  cases fetch s.mem s.PC with
  | none => rfl
  | some b0 => simp [hpc]

/-- A step executes Add(Indirect) exactly when the byte at `PC` is 0x86. -/
theorem window_indirect_iff (s : State) :
    (decode (fetchWindow s)).bind Instr.source? = some .indirect ↔ fetch s.mem s.PC = some 0x86 := by
  rcases fetchWindow_cases s with ⟨h0, hw⟩ | ⟨b0, h0, hn, hw⟩ | ⟨b0, h0, hn, -, hw⟩ | ⟨b0, b1, h0, hn, -, hw⟩
  · simp [hw, h0]
  · rw [hw, decode_single_indirect_iff b0 hn, h0, Option.some_inj]
  · rw [hw, decode_single_of_needsSecond b0 hn, h0, Option.some_inj]
    simpa using ne_86_of_needsSecond b0 hn
  · rw [hw, h0, Option.some_inj]
    exact iff_of_false (decode_pair_source_ne_indirect b0 b1 hn) (ne_86_of_needsSecond b0 hn)

/-- The one data read, at `HL`, belongs to 0x86 (20_memory.md R75, read 3). -/
theorem dataReads_of_86 (s : State) (h0 : fetch s.mem s.PC = some 0x86) : dataReads s = [.data (s.H ++ s.L)] := by
  rw [dataReads, (window_indirect_iff s).mpr h0, getPair_HL]

theorem dataReads_of_ne_86 (s : State) (h0 : fetch s.mem s.PC ≠ some 0x86) : dataReads s = [] := by
  unfold dataReads
  split
  · next hind => exact absurd ((window_indirect_iff s).mp hind) h0
  · rfl

/-- Where the byte at `PC` is not 0x86, the fetch reads are all the reads. -/
theorem stepReads_of_ne_86 (s : State) (h0 : fetch s.mem s.PC ≠ some 0x86) : stepReads s = fetchReads s := by
  rw [stepReads, dataReads_of_ne_86 s h0, List.append_nil]

theorem stepReads_of_needsSecond (s : State) (b0 : Byte) (h0 : fetch s.mem s.PC = some b0)
    (hn : needsSecond b0 = true) : stepReads s = fetchReads s :=
  stepReads_of_ne_86 s (by simpa [h0] using ne_86_of_needsSecond b0 hn)

/-- Settles O26, by the first byte: the format gives the fetches, and 0x86 alone the data read. -/
theorem stepReadsInOrder : Obligations.StepReadsInOrder := by
  intro s
  refine ⟨fun h0 => ?_, fun b0 h0 => ⟨fun htwo hpc => ?_, fun htwo hpc => ?_, ?_, fun hone hb => ?_⟩⟩
  · rw [stepReads_of_ne_86 s (by simp [h0]), fetchReads_of_absent s h0]
  · rw [twoByteFormat_iff_needsSecond] at htwo
    rw [stepReads_of_needsSecond s b0 h0 htwo, fetchReads_of_two_bytes s b0 h0 htwo hpc]
  · rw [twoByteFormat_iff_needsSecond] at htwo
    rw [stepReads_of_needsSecond s b0 h0 htwo, fetchReads_at_top s hpc]
  · rintro rfl
    rw [stepReads, fetchReads_of_one_byte s 0x86 h0 (by decide), dataReads_of_86 s h0, List.singleton_append]
  · rw [not_twoByteFormat_iff] at hone
    rw [stepReads_of_ne_86 s (by simpa [h0] using hb), fetchReads_of_one_byte s b0 h0 hone]

/-- A two-byte format whose second byte is absent is a window too short (30_encoding.md R105). -/
theorem step_of_second_absent (s : State) (b0 : Byte) (h0 : fetch s.mem s.PC = some b0)
    (hn : needsSecond b0 = true) (h1 : fetchSecond s.mem s.PC = none) : step s = .fault .decodeInvalid := by
  refine step_of_decode_none s ?_
  rw [show fetchWindow s = [b0] by simp [fetchWindow, h0, hn, h1], decode_single_of_needsSecond b0 hn]

/-- Settles O25: at the top the second byte is absent whatever is held, and its read does not go out. -/
theorem fetchWindowStopsAtTheTop : Obligations.FetchWindowStopsAtTheTop := by
  intro s b0 hpc h0 htwo
  have h0' : fetch s.mem s.PC = some b0 := by rw [hpc, h0]
  rw [twoByteFormat_iff_needsSecond] at htwo
  constructor
  · exact step_of_second_absent s b0 h0' htwo (by rw [hpc, fetchSecond_top])
  · rw [stepReads_of_needsSecond s b0 h0' htwo, fetchReads_at_top s hpc, hpc]

/-! ## Changes inside the collaborator -/

theorem fetch_hold_same (m : Collaborator) (a : Word) (b : Byte) : fetch (collabAfter (.hold a b) m) a = some b :=
  Memory.read_put_same _ _ _

theorem fetch_hold_ne (m : Collaborator) (a q : Word) (b : Byte) (h : q ≠ a) :
    fetch (collabAfter (.hold a b) m) q = fetch m q :=
  Memory.read_put_ne _ _ _ _ (BitVec.toNat_ne_iff_ne.mpr h)

theorem fetch_vacate_same (m : Collaborator) (a : Word) : fetch (collabAfter (.vacate a) m) a = none :=
  Memory.read_drop_same _ _

theorem fetch_vacate_ne (m : Collaborator) (a q : Word) (h : q ≠ a) :
    fetch (collabAfter (.vacate a) m) q = fetch m q :=
  Memory.read_drop_ne _ _ _ (BitVec.toNat_ne_iff_ne.mpr h)

/-- An answer made ready stands last (20_memory.md R64; notes/assumptions/4.md). -/
theorem memRead_after_ready (m : Collaborator) (a : Word) (b r : Byte) (rest : List Byte)
    (h : m.replies = r :: rest) :
    memRead (collabAfter (.ready b) m) a = (r, { collabAfter (.ready b) m with replies := rest ++ [b] }) :=
  memRead_ready _ a r (rest ++ [b]) (by simp [collabAfter, h])

/-- With no answer ready before, the one made ready is the next. -/
theorem memRead_after_first_ready (m : Collaborator) (a : Word) (b : Byte) (h : m.replies = []) :
    (memRead (collabAfter (.ready b) m) a).1 = b := by
  rw [memRead_ready _ a b [] (by simp [collabAfter, h])]

/-- Settles O51, change by change: what is held on the fetch port, then the answers on the data port. -/
theorem collaboratorChangesAreSeenAtOnce : Obligations.CollaboratorChangesAreSeenAtOnce := by
  intro s a q b
  refine ⟨fetch_hold_same s.mem a b, fetch_vacate_same s.mem a,
    fun hq => ⟨fetch_hold_ne s.mem a q b hq, fetch_vacate_ne s.mem a q hq⟩,
    fun hr => ⟨?_, memRead_after_first_ready s.mem a b hr, fun h0 => ?_⟩,
    fun r rest hr => ?_, fun _ => rfl, rfl, fun _ => rfl⟩
  · exact congrArg Prod.fst (memRead_held (collabAfter (.hold a b) s.mem) a b hr (fetch_hold_same s.mem a b))
  · exact congrArg Prod.fst (memRead_unheld (collabAfter (.answerUnheld (some b)) s.mem) a b hr h0 rfl)
  · have hread := memRead_after_ready s.mem a b r rest hr
    exact ⟨congrArg Prod.fst hread, congrArg (·.2.replies) hread⟩

/-! ## Runs of OK steps -/

theorem runsOk_zero_iff (s t : State) : RunsOk 0 s t ↔ s = t :=
  ⟨Host.Outcome.next.inj, congrArg _⟩

/-- A longer run is an OK step and a run from the state it leaves. -/
theorem runsOk_succ_iff (n : Nat) (s t : State) :
    RunsOk (n + 1) s t ↔ ∃ u, step s = .next u ∧ RunsOk n u t := by
  have hstep : Sys2Proof.core.step s = step s := rfl
  simp only [RunsOk, Host.Core.run, hstep]
  cases step s <;> simp

/-- What every OK step keeps, a run of OK steps keeps. -/
theorem runsOk_keeps {P : State → Prop} (hstep : ∀ s t, P s → step s = .next t → P t) {n : Nat} {s t : State}
    (hrun : RunsOk n s t) (hs : P s) : P t := by
  induction n generalizing s with
  | zero => exact (runsOk_zero_iff s t).mp hrun ▸ hs
  | succ n ih =>
    obtain ⟨u, hu, hrest⟩ := (runsOk_succ_iff n s t).mp hrun
    exact ih hrest (hstep s u hs hu)

/-! ## The reference memory -/

/-- The data port of the reference memory: its array with 0x00 beyond it, and no side effect (20_memory.md R80). -/
theorem memRead_reference (M : List Byte) (a : Word) :
    memRead (Collaborator.reference M) a = (M[a.toNat]?.getD 0x00, Collaborator.reference M) := by
  have hfetch := fetch_reference M a
  cases hM : M[a.toNat]? with
  | some b => exact memRead_held _ a b rfl (hfetch.trans hM)
  | none => exact memRead_unheld _ a 0x00 rfl (hfetch.trans hM) rfl

/-- An OK step leaves the reference memory as it is: its only read has no side effect. -/
theorem step_keeps_reference (M : List Byte) (s t : State) (hs : s.mem = Collaborator.reference M)
    (hstep : step s = .next t) : t.mem = Collaborator.reference M := by
  obtain ⟨_, src, -, -, -, rfl⟩ := step_next s t hstep
  rw [commit_mem]
  by_cases hsrc : src = .indirect
  · rw [hsrc, resolve, hs, memRead_reference]
  · rw [resolve_mem src s hsrc, hs]

/-- Settles O53: both ports index the array, and no OK step changes it. -/
theorem referenceMemoryAnswersItsArray : Obligations.ReferenceMemoryAnswersItsArray := by
  intro M hlen
  refine ⟨Memory.ofBytes_wf 0 M (by omega), fun a => ⟨fun h => ?_, fun h => ?_⟩,
    fun n s t hs hrun => runsOk_keeps (step_keeps_reference M) hrun hs⟩
  · rw [fetch_reference, memRead_reference, List.getElem?_eq_getElem h]
    exact ⟨rfl, rfl⟩
  · rw [fetch_reference, memRead_reference, List.getElem?_eq_none h]
    exact ⟨rfl, rfl⟩

end Sys2Proof.Machine

/-! # Family 30_encoding: fields, formats, decode results and the opcode table -/

namespace Sys2Proof

/-! ## The fields of the opcode byte over the naturals -/

theorem blkOf_toNat (b0 : Byte) : (blkOf b0).toNat = b0.toNat / 64 := by
  have hb0 := b0.isLt
  rw [blkOf, BitVec.extractLsb'_toNat, Nat.shiftRight_eq_div_pow]
  omega

theorem opOf_toNat (b0 : Byte) : (opOf b0).toNat = b0.toNat / 8 % 8 := by
  rw [opOf, BitVec.extractLsb'_toNat, Nat.shiftRight_eq_div_pow]

theorem rOf_toNat (b0 : Byte) : (rOf b0).toNat = b0.toNat % 8 := by
  rw [rOf, BitVec.extractLsb'_toNat, Nat.shiftRight_zero]

/-- Settles O12: the fields are read off the value, and they make up the byte again. -/
theorem opcodeByteSplitsIntoThreeFields : Obligations.OpcodeByteSplitsIntoThreeFields :=
  fun b0 => ⟨blkOf_toNat b0, opOf_toNat b0, rOf_toNat b0, opcodeByte_fields b0⟩

theorem blkOf_eq_iff (b0 : Byte) (k : BitVec 2) : blkOf b0 = k ↔ b0.toNat / 64 = k.toNat := by
  rw [← BitVec.toNat_inj, blkOf_toNat]

theorem opOf_eq_iff (b0 : Byte) (k : BitVec 3) : opOf b0 = k ↔ b0.toNat / 8 % 8 = k.toNat := by
  rw [← BitVec.toNat_inj, opOf_toNat]

theorem rOf_eq_iff (b0 : Byte) (k : BitVec 3) : rOf b0 = k ↔ b0.toNat % 8 = k.toNat := by
  rw [← BitVec.toNat_inj, rOf_toNat]

/-- A block number is one of the four of 30_encoding.md R93. -/
theorem blk_cases (blk : BitVec 2) : blk = 0#2 ∨ blk = 1#2 ∨ blk = 2#2 ∨ blk = 3#2 := by
  revert blk; decide

/-- An operation field has one of eight values (30_encoding.md R99). -/
theorem op_cases (op : BitVec 3) :
    op = 0#3 ∨ op = 1#3 ∨ op = 2#3 ∨ op = 3#3 ∨ op = 4#3 ∨ op = 5#3 ∨ op = 6#3 ∨ op = 7#3 := by
  revert op; decide

theorem ne_CB_of_blkOf_ne (b0 : Byte) (h : blkOf b0 ≠ 3#2) : b0 ≠ 0xCB#8 := by
  rintro rfl
  exact h (by decide)

theorem ne_CB_of_rOf_eq_6 (b0 : Byte) (h : rOf b0 = 6#3) : b0 ≠ 0xCB#8 := by
  rintro rfl
  exact absurd h (by decide)

theorem needsSecond_aluImm (b0 : Byte) (hblk : blkOf b0 = 3#2) (hr : rOf b0 = 6#3) : needsSecond b0 = true := by
  simp [needsSecond, hblk, hr]

/-- Block 2 is the bytes 0x80 to 0xBF (30_encoding.md R96). -/
theorem blkOf_eq_2_iff (b0 : Byte) : blkOf b0 = 2#2 ↔ 0x80 ≤ b0.toNat ∧ b0.toNat ≤ 0xBF := by
  rw [blkOf_eq_iff, BitVec.toNat_ofNat]
  omega

/-- In block 2 operation 0 is the bytes up to 0x87 (30_encoding.md R96). -/
theorem opOf_eq_0_iff_of_block2 (b0 : Byte) (hblk : blkOf b0 = 2#2) : opOf b0 = 0#3 ↔ b0.toNat ≤ 0x87 := by
  rw [blkOf_eq_2_iff] at hblk
  rw [opOf_eq_iff, BitVec.toNat_ofNat]
  omega

/-- The leading bytes of format ALU-I (30_encoding.md R97). -/
theorem aluImm_iff (b0 : Byte) :
    (blkOf b0 = 3#2 ∧ rOf b0 = 6#3) ↔ b0.toNat ∈ [0xC6, 0xCE, 0xD6, 0xDE, 0xE6, 0xEE, 0xF6, 0xFE] := by
  have hb0 := b0.isLt
  simp only [blkOf_eq_iff, rOf_eq_iff, BitVec.toNat_ofNat, List.mem_cons, List.not_mem_nil, or_false]
  omega

/-- In format ALU-I operation 0 is 0xC6 (30_encoding.md R97). -/
theorem opOf_eq_0_iff_of_aluImm (b0 : Byte) (hblk : blkOf b0 = 3#2) (hr : rOf b0 = 6#3) :
    opOf b0 = 0#3 ↔ b0 = 0xC6#8 := by
  constructor
  · intro hop
    rw [← opcodeByte_fields b0, hblk, hop, hr]
    rfl
  · rintro rfl
    rfl

/-! ## The register-code table -/

theorem some_sourceOfCode (r : BitVec 3) : some (sourceOfCode r) = Claims.codeTable[r.toNat]? := by
  revert r; decide

theorem some_fromOpcode (b0 : Byte) : some (fromOpcode b0) = Claims.codeTable[b0.toNat % 8]? := by
  rw [fromOpcode, some_sourceOfCode, rOf_toNat]

/-- No register code names a literal byte (30_encoding.md R95). -/
@[simp] theorem sourceOfCode_length (r : BitVec 3) : (sourceOfCode r).length = 1 := by
  unfold sourceOfCode
  split <;> rfl

/-! ## The decoder, format by format -/

theorem decode_block0 (b0 : Byte) (rest : List Byte) (h : blkOf b0 = 0#2) :
    decode (b0 :: rest) = some (.block0 b0) := by
  have hcb := ne_CB_of_blkOf_ne b0 (by rw [h]; decide)
  simp [decode, hcb, h]

theorem decode_block1 (b0 : Byte) (rest : List Byte) (h : blkOf b0 = 1#2) :
    decode (b0 :: rest) = some (.block1 b0) := by
  have hcb := ne_CB_of_blkOf_ne b0 (by rw [h]; decide)
  simp [decode, hcb, h]

theorem decode_block2 (b0 : Byte) (rest : List Byte) (h : blkOf b0 = 2#2) :
    decode (b0 :: rest) = some (decodeBlock2 (opOf b0) (rOf b0)) := by
  have hcb := ne_CB_of_blkOf_ne b0 (by rw [h]; decide)
  simp [decode, hcb, h]

theorem decode_aluImm (b0 n : Byte) (rest : List Byte) (hblk : blkOf b0 = 3#2) (hr : rOf b0 = 6#3) :
    decode (b0 :: n :: rest) = some (decodeBlock3Imm (opOf b0) n) := by
  rw [decode_two, decode_pair_of_needsSecond b0 n (needsSecond_aluImm b0 hblk hr),
    if_neg (ne_CB_of_rOf_eq_6 b0 hr)]

theorem decode_block3Other (b0 : Byte) (rest : List Byte) (hblk : blkOf b0 = 3#2) (hr : rOf b0 ≠ 6#3)
    (hcb : b0 ≠ 0xCB#8) : decode (b0 :: rest) = some (decodeBlock3Other b0) := by
  simp [decode, decodeBlock3, hcb, hblk, hr]

/-! ## The decode result, format by format -/

theorem decodeResult_of_some {w : List Byte} {i : Instr} (h : decode w = some i) :
    decodeResult w = i.result := by
  rw [decodeResult, h]

theorem decodeResult_of_none {w : List Byte} (h : decode w = none) : decodeResult w = .invalid := by
  rw [decodeResult, h]

@[simp] theorem addOf_result (src : ArithSource) : (addOf src).result = .ok (addOf src) src.length := by
  cases src with
  | reg x => cases x <;> rfl
  | indirect => rfl
  | immediate n => rfl

/-- Format ALU-R: only operation 0 has semantics (30_encoding.md R96, R99). -/
theorem decodeBlock2_result (op r : BitVec 3) :
    (decodeBlock2 op r).result =
      if op = 0#3 then .ok (addOf (sourceOfCode r)) 1 else .unimplemented .block2Op (opcodeByte 2#2 op r) none := by
  rcases op_cases op with rfl | rfl | rfl | rfl | rfl | rfl | rfl | rfl
  · exact (addOf_result (sourceOfCode r)).trans (by rw [sourceOfCode_length, if_pos rfl])
  all_goals rfl

/-- Format ALU-I: only operation 0 has semantics (30_encoding.md R97, R99). -/
theorem decodeBlock3Imm_result (op : BitVec 3) (n : Byte) :
    (decodeBlock3Imm op n).result =
      if op = 0#3 then .ok (addOf (fromLiteral n)) 2
      else .unimplemented .block3ImmOp (opcodeByte 3#2 op 6#3) (some n) := by
  rcases op_cases op with rfl | rfl | rfl | rfl | rfl | rfl | rfl | rfl <;> rfl

/-- The rest of block 3 reports its leading byte, which the row of 0xC3 does not keep (30_encoding.md R102). -/
theorem decodeBlock3Other_result (b0 : Byte) (hblk : blkOf b0 = 3#2) :
    (decodeBlock3Other b0).result = .unimplemented .block3Other b0 none := by
  unfold decodeBlock3Other
  split
  case h_4 hr =>
    unfold decodeBlock3R3
    split
    case h_1 hop =>
      have hC3 : b0 = 0xC3#8 := by
        rw [← opcodeByte_fields b0, hblk, hop, hr]
        rfl
      rw [hC3]
      rfl
    all_goals rfl
  all_goals rfl

theorem decodeResult_block2 (b0 : Byte) (rest : List Byte) (h : blkOf b0 = 2#2) :
    decodeResult (b0 :: rest) =
      if opOf b0 = 0#3 then .ok (addOf (fromOpcode b0)) 1 else .unimplemented .block2Op b0 none := by
  rw [decodeResult_of_some (decode_block2 b0 rest h), decodeBlock2_result, ← h, opcodeByte_fields, fromOpcode]

theorem decodeResult_aluImm (b0 n : Byte) (rest : List Byte) (hblk : blkOf b0 = 3#2) (hr : rOf b0 = 6#3) :
    decodeResult (b0 :: n :: rest) =
      if opOf b0 = 0#3 then .ok (addOf (fromLiteral n)) 2 else .unimplemented .block3ImmOp b0 (some n) := by
  rw [decodeResult_of_some (decode_aluImm b0 n rest hblk hr), decodeBlock3Imm_result, ← hblk, ← hr,
    opcodeByte_fields]

theorem decodeResult_aluImm_alone (b0 : Byte) (hblk : blkOf b0 = 3#2) (hr : rOf b0 = 6#3) :
    decodeResult [b0] = .invalid :=
  decodeResult_of_none (decode_single_of_needsSecond b0 (needsSecond_aluImm b0 hblk hr))

theorem decodeResult_block3Other (b0 : Byte) (rest : List Byte) (hblk : blkOf b0 = 3#2) (hr : rOf b0 ≠ 6#3)
    (hcb : b0 ≠ 0xCB#8) : decodeResult (b0 :: rest) = .unimplemented .block3Other b0 none := by
  rw [decodeResult_of_some (decode_block3Other b0 rest hblk hr hcb), decodeBlock3Other_result b0 hblk]

/-- Settles O13: the eight Add opcodes are block 2 with operation 0, whose source is the table's entry. -/
theorem registerCodeTableIsShared : Obligations.RegisterCodeTableIsShared := by
  refine ⟨some_fromOpcode, fun b0 rest hlo hhi => ?_⟩
  have hblk : blkOf b0 = 2#2 := (blkOf_eq_2_iff b0).mpr ⟨hlo, by omega⟩
  have hop : opOf b0 = 0#3 := (opOf_eq_0_iff_of_block2 b0 hblk).mpr hhi
  calc (decode (b0 :: rest)).bind Instr.source?
      = (addOf (fromOpcode b0)).source? := by rw [decode_block2 b0 rest hblk, hop]; rfl
    _ = Claims.codeTable[b0.toNat % 8]? := by rw [addOf_source, some_fromOpcode]

/-- Settles O14: the result of block 2 is a choice on the operation field that looks at no later byte. -/
theorem aluRegisterFormatIsOneByte : Obligations.AluRegisterFormatIsOneByte := by
  refine ⟨blkOf_eq_2_iff, fun b0 rest hblk => ?_⟩
  rw [decodeResult_block2 b0 rest hblk, decodeResult_block2 b0 [] hblk]
  refine ⟨rfl, ?_, opOf_eq_0_iff_of_block2 b0 hblk, fun hop => if_pos hop, fun (hop : opOf b0 ≠ 0#3) => ?_⟩
  · split <;> simp
  · simp [hop]

/-- Settles O15: alone the leading byte is too short, and with a second byte the result is a choice on the
operation field. -/
theorem aluImmediateFormatIsTwoBytes : Obligations.AluImmediateFormatIsTwoBytes := by
  refine ⟨aluImm_iff, fun b0 hblk hr => ⟨decodeResult_aluImm_alone b0 hblk hr, opOf_eq_0_iff_of_aluImm b0 hblk hr⟩,
    fun b0 n rest hblk hr => ?_⟩
  rw [decodeResult_aluImm b0 n rest hblk hr, decodeResult_aluImm b0 n [] hblk hr]
  refine ⟨rfl, ?_, fun hop => ⟨if_pos hop, rfl⟩, fun (hop : opOf b0 ≠ 0#3) => ?_⟩
  · split <;> simp
  · simp [hop]

/-! ## The pseudocode of R104 -/

/-- Settles O17: both are evaluated on each format, 0xCB first and then the four blocks. -/
theorem decoderIsTheSpecsPseudocode : Obligations.DecoderIsTheSpecsPseudocode := by
  intro w
  cases w with
  | nil => rfl
  | cons b0 rest =>
    by_cases hcb : b0 = 0xCB#8
    · subst hcb
      cases rest <;> rfl
    have hcbNat : b0.toNat ≠ 0xCB := fun h => hcb (BitVec.eq_of_toNat_eq h)
    have hop0 : b0.toNat / 8 % 8 = 0 ↔ opOf b0 = 0#3 := (opOf_eq_iff b0 0).symm
    rcases blk_cases (blkOf b0) with hblk | hblk | hblk | hblk
    all_goals have hdiv := (blkOf_eq_iff b0 _).mp hblk
    · simp [decodeResult_of_some (decode_block0 b0 rest hblk), Instr.result, Claims.specDecode, hcbNat, hdiv]
    · simp [decodeResult_of_some (decode_block1 b0 rest hblk), Instr.result, Claims.specDecode, hcbNat, hdiv]
    · simp [decodeResult_block2 b0 rest hblk, Claims.specDecode, hcbNat, hdiv, hop0, ← some_fromOpcode]
    · by_cases hr : rOf b0 = 6#3
      · have hmod : b0.toNat % 8 = 6 := (rOf_eq_iff b0 6).mp hr
        cases rest with
        | nil => simp [decodeResult_aluImm_alone b0 hblk hr, Claims.specDecode, hcbNat, hdiv, hmod]
        | cons b1 rest =>
          simp [decodeResult_aluImm b0 b1 rest hblk hr, Claims.specDecode, hcbNat, hdiv, hmod, hop0, fromLiteral]
      · have hmod : b0.toNat % 8 ≠ 6 := fun h => hr ((rOf_eq_iff b0 6).mpr h)
        simp [decodeResult_block3Other b0 rest hblk hr hcb, Claims.specDecode, hcbNat, hdiv, hmod]

/-! ## The rows of the opcode table -/

theorem row_mem_opcodeTable (i : Instr) : i.row ∈ opcodeTable := by
  cases i <;> simp [opcodeTable, addRows, opRows, otherRows, Instr.row]

/-- The rows of the opcode table are disjoint and cover every leading byte (30_encoding.md R112). -/
theorem rowsOf_length (b0 : Byte) : (rowsOf b0).length = 1 := by
  revert b0; decide

/-- The one row a leading byte belongs to is any row that it matches. -/
theorem rowsOf_eq_row {b0 : Byte} {i : Instr} (h : inRow i.row.mask i.row.pattern b0 = true) :
    rowsOf b0 = [i.row] := by
  obtain ⟨row, hrows⟩ := List.length_eq_one_iff.mp (rowsOf_length b0)
  have hmem : i.row ∈ rowsOf b0 := List.mem_filter.mpr ⟨row_mem_opcodeTable i, h⟩
  rw [hrows, List.mem_singleton] at hmem
  rw [hrows, hmem]

theorem decodeBlock3Imm_row (op : BitVec 3) (n : Byte) :
    (decodeBlock3Imm op n).row = (decodeBlock3Imm op 0).row := by
  rcases op_cases op with rfl | rfl | rfl | rfl | rfl | rfl | rfl | rfl <;> rfl

/-- A byte of a one-byte format matches the row it decodes to (30_encoding.md R112). -/
theorem decode_single_inRow (b0 : Byte) (h : needsSecond b0 = false) :
    ∃ i, decode [b0] = some i ∧ inRow i.row.mask i.row.pattern b0 = true := by
  have hrow : (decode [b0]).any (fun i => inRow i.row.mask i.row.pattern b0) = true := by revert b0; decide
  simpa [Option.any_eq_true] using hrow

/-- The first byte of a two-byte format matches the row the two bytes decode to (30_encoding.md R112). -/
theorem decode_pair_inRow (b0 b1 : Byte) (h : needsSecond b0 = true) :
    ∃ i, decode [b0, b1] = some i ∧ inRow i.row.mask i.row.pattern b0 = true := by
  refine ⟨_, decode_pair_of_needsSecond b0 b1 h, ?_⟩
  split
  case isTrue hcb =>
    subst hcb
    show inRow 0xFF 0xCB 0xCB = true
    decide
  case isFalse hcb =>
    rw [decodeBlock3Imm_row]
    clear b1
    revert b0; decide

/-- Every window of two bytes decodes, to an instruction whose row the first byte matches (30_encoding.md R94). -/
theorem decode_inRow (b0 b1 : Byte) :
    ∃ i, decode [b0, b1] = some i ∧ inRow i.row.mask i.row.pattern b0 = true := by
  cases h : needsSecond b0 with
  | false => rw [decode_first_alone b0 [b1] h]; exact decode_single_inRow b0 h
  | true => exact decode_pair_inRow b0 b1 h

/-- A row with semantics gives the result Ok, a row without the result Unimplemented (30_encoding.md R105). -/
theorem result_cases (i : Instr) :
    (i.source?.isSome ∧ ∃ n, i.result = .ok i n) ∨
    (¬ i.source?.isSome ∧ ∃ c x y, i.result = .unimplemented c x y) := by
  rcases Machine.exec_cases i Machine.State.reset with ⟨src, hsrc, rfl, -⟩ | ⟨c, x, y, hsrc, hres, -⟩
  · exact .inl ⟨by simp, _, addOf_result src⟩
  · exact .inr ⟨by simp [hsrc], c, x, y, hres⟩

theorem result_ok_iff (i : Instr) : (∃ j n, i.result = .ok j n) ↔ i.source?.isSome := by
  rcases result_cases i with ⟨hsrc, n, hres⟩ | ⟨hsrc, c, x, y, hres⟩ <;> simp [hsrc, hres]

theorem result_unimplemented_iff (i : Instr) :
    (∃ c x y, i.result = .unimplemented c x y) ↔ ¬ i.source?.isSome := by
  rcases result_cases i with ⟨hsrc, n, hres⟩ | ⟨hsrc, c, x, y, hres⟩ <;> simp [hsrc, hres]

/-- The nine leading bytes with semantics (30_encoding.md R94). -/
theorem decode_hasSource_iff (b0 b1 : Byte) :
    ((decode [b0, b1]).bind Instr.source?).isSome ↔
      (0x80 ≤ b0.toNat ∧ b0.toNat ≤ 0x87) ∨ b0.toNat = 0xC6 := by
  cases h : needsSecond b0 with
  | false =>
    rw [decode_first_alone b0 [b1] h, decode_single_hasSource_iff b0 h,
      or_iff_left (ne_C6_of_not_needsSecond b0 h)]
  | true =>
    rw [decode_pair_hasSource_iff b0 b1 h, or_iff_right (not_80_to_87_of_needsSecond b0 h)]

/-- Settles O16: each byte matches one row and decodes to a row it matches; the rows with a source are the Ok
ones. -/
theorem everyLeadingByteIsClassified : Obligations.EveryLeadingByteIsClassified := by
  refine ⟨rfl, fun b0 b1 => ?_, fun b0 b1 => ?_⟩
  · obtain ⟨i, hdec, hin⟩ := decode_inRow b0 b1
    exact ⟨i, hdec, rowsOf_eq_row hin⟩
  · obtain ⟨i, hdec, -⟩ := decode_inRow b0 b1
    have hsrc := decode_hasSource_iff b0 b1
    rw [hdec, Option.bind_some] at hsrc
    rw [decodeResult_of_some hdec, ← hsrc]
    exact ⟨result_ok_iff i, result_unimplemented_iff i⟩

end Sys2Proof

/-! # Family 40_step_and_operands: the step, the resolver, and what a non-OK outcome leaves -/

namespace Sys2Proof.Machine

/-! ## The step by the bytes at `PC` -/

theorem fetchWindow_of_one_byte (s : State) (b0 : Byte) (h0 : fetch s.mem s.PC = some b0)
    (hn : needsSecond b0 = false) : fetchWindow s = [b0] := by
  simp [fetchWindow, h0, hn]

theorem fetchWindow_of_two_bytes (s : State) (b0 b1 : Byte) (h0 : fetch s.mem s.PC = some b0)
    (hn : needsSecond b0 = true) (hpc : s.PC ≠ 0xFFFF) (h1 : fetch s.mem (s.PC + 1) = some b1) :
    fetchWindow s = [b0, b1] := by
  have h1' : fetchSecond s.mem s.PC = some b1 := by rw [fetchSecond_below s.mem s.PC hpc, h1]
  simp [fetchWindow, h0, hn, h1']

/-- A byte of a one-byte or undivided format is executed alone (40_step_and_operands.md R131). -/
theorem step_of_one_byte (s : State) (b0 : Byte) (i : Instr) (h0 : fetch s.mem s.PC = some b0)
    (hn : needsSecond b0 = false) (hdec : decode [b0] = some i) : step s = exec i s :=
  step_of_decode_some s i (by rw [fetchWindow_of_one_byte s b0 h0 hn, hdec])

/-- A byte of a two-byte format is executed with the byte at `PC + 1` (40_step_and_operands.md R131). -/
theorem step_of_two_bytes (s : State) (b0 b1 : Byte) (i : Instr) (h0 : fetch s.mem s.PC = some b0)
    (hn : needsSecond b0 = true) (hpc : s.PC ≠ 0xFFFF) (h1 : fetch s.mem (s.PC + 1) = some b1)
    (hdec : decode [b0, b1] = some i) : step s = exec i s :=
  step_of_decode_some s i (by rw [fetchWindow_of_two_bytes s b0 b1 h0 hn hpc h1, hdec])

/-- Settles O19, by the two forms of a window that is long enough. -/
theorem stepRunsTheDecodedInstruction : Obligations.StepRunsTheDecodedInstruction := by
  intro s b0 h0
  rw [not_twoByteFormat_iff, twoByteFormat_iff_needsSecond]
  exact ⟨fun hn i => step_of_one_byte s b0 i h0 hn,
    fun hn hpc b1 h1 i => step_of_two_bytes s b0 b1 i h0 hn hpc h1⟩

/-- Where the bytes of `Add(src)` are held at `PC`, a step executes it. -/
theorem step_of_add_held (src : ArithSource) (s : State)
    (h0 : fetch s.mem s.PC = (encode (addOf src)).head?)
    (h1 : ∀ n, src = .immediate n → s.PC ≠ 0xFFFF ∧ fetch s.mem (s.PC + 1) = some n) :
    step s = exec (addOf src) s := by
  cases src with
  | reg x => cases x <;> exact step_of_one_byte s _ _ h0 rfl rfl
  | indirect => exact step_of_one_byte s _ _ h0 rfl rfl
  | immediate n =>
    obtain ⟨hpc, hn⟩ := h1 n rfl
    exact step_of_two_bytes s _ n _ h0 rfl hpc hn rfl

/-! ## A step that is not OK -/

/-- A step that is not OK has no operand source: its window is too short or a row without semantics. -/
theorem source_eq_none_of_not_next (s : State) (h : ∀ t, step s ≠ .next t) :
    (decode (fetchWindow s)).bind Instr.source? = none := by
  rw [← Option.not_isSome_iff_eq_none, ← step_isNext_iff_hasSource]
  rintro ⟨t, ht⟩
  exact h t ht

theorem dataReads_of_source_none (s : State) (h : (decode (fetchWindow s)).bind Instr.source? = none) :
    dataReads s = [] := by
  simp [dataReads, h]

/-- Without an operand source the outcome is the window's alone (42_unimplemented.md R187, 60_exceptions.md
R201). -/
theorem step_eq_of_window_of_source_none {s u : State} (hw : fetchWindow u = fetchWindow s)
    (h : (decode (fetchWindow s)).bind Instr.source? = none) : step u = step s := by
  cases hdec : decode (fetchWindow s) with
  | none => rw [step_of_decode_none s hdec, step_of_decode_none u (hw ▸ hdec)]
  | some i =>
    rw [hdec, Option.bind_some] at h
    rw [step_of_decode_some s i hdec, step_of_decode_some u i (hw ▸ hdec), exec_eq_of_noSource i s u h]

/-- A step that is not OK leaves the state (60_exceptions.md R203). -/
theorem turn_step_of_not_next (s : State) (h : ∀ t, step s ≠ .next t) : turn .step s = s := by
  rw [turn]
  cases hstep : step s with
  | next t => exact absurd hstep (h t)
  | fault r => rfl
  | refused r => rfl

/-- After a step that is not OK a session goes on from the same state (60_exceptions.md R206). -/
theorem session_step_of_not_next (s : State) (x : Turn) (h : ∀ t, step s ≠ .next t) :
    session [.step, x] s = turn x s :=
  congrArg (turn x) (turn_step_of_not_next s h)

/-- A turn that leaves the state leaves it any number of times. -/
theorem session_replicate_of_fixed {x : Turn} {s : State} (h : turn x s = s) (n : Nat) :
    session (List.replicate n x) s = s := by
  induction n with
  | zero => rfl
  | succ n ih => rw [List.replicate_succ, session, h, ih]

/-- A non-OK step comes again in every state that agrees on `PC` and on what is fetched (60_exceptions.md
R206). -/
theorem not_next_repeats_of_agree {s u : State} (h : ∀ t, step s ≠ .next t) (hpc : u.PC = s.PC)
    (hf : ∀ a, .fetch a ∈ stepReads s → fetch u.mem a = fetch s.mem a) :
    step u = step s ∧ stepReads u = stepReads s := by
  have hf' : ∀ a, .fetch a ∈ fetchReads s → fetch u.mem a = fetch s.mem a :=
    fun a ha => hf a (List.mem_append_left _ ha)
  have hw := fetchWindow_eq_of_agree hpc hf'
  have hsrc := source_eq_none_of_not_next s h
  refine ⟨step_eq_of_window_of_source_none hw hsrc, ?_⟩
  rw [stepReads, stepReads, fetchReads_eq_of_agree hpc hf', dataReads_of_source_none s hsrc,
    dataReads_of_source_none u (hw ▸ hsrc)]

/-- A byte supplied at `PC` is executed if it decodes alone (20_memory.md R78). -/
theorem step_of_held_at_PC (s : State) (b0 : Byte) (i : Instr) (hdec : decode [b0] = some i) :
    step (turn (.collab (.hold s.PC b0)) s) = exec i (turn (.collab (.hold s.PC b0)) s) := by
  have hn : needsSecond b0 = false := by
    rw [← Bool.not_eq_true]
    intro hn
    simp [decode_single_of_needsSecond b0 hn] at hdec
  exact step_of_one_byte _ b0 i (fetch_hold_same s.mem s.PC b0) hn hdec

/-- A byte supplied at `PC + 1` is executed with the two-byte format's first byte at `PC` (20_memory.md R78). -/
theorem step_of_held_second (s : State) (b0 b1 : Byte) (i : Instr) (h0 : fetch s.mem s.PC = some b0)
    (hn : needsSecond b0 = true) (hpc : s.PC ≠ 0xFFFF) (hdec : decode [b0, b1] = some i) :
    step (turn (.collab (.hold (s.PC + 1) b1)) s) = exec i (turn (.collab (.hold (s.PC + 1) b1)) s) := by
  have h0' : fetch (collabAfter (.hold (s.PC + 1) b1) s.mem) s.PC = some b0 := by
    rw [fetch_hold_ne s.mem (s.PC + 1) s.PC b1 (by simp), h0]
  exact step_of_two_bytes _ b0 b1 i h0' hn hpc (fetch_hold_same s.mem (s.PC + 1) b1) hdec

/-- Settles O28: without an operand source the window alone decides the step, and since the step leaves the
state, the host's next turn acts on that state. -/
theorem nonOkStepRepeats : Obligations.NonOkStepRepeats := by
  intro s hstop
  refine ⟨fun u hpc hf => ?_, fun v src h0 h1 => ?_, fun _ b0 i hdec => ?_, fun b0 h0 _ hpc b1 i htwo hdec => ?_⟩
  · obtain ⟨hstep, hreads⟩ := not_next_repeats_of_agree hstop hpc hf
    exact ⟨hstep, hreads, session_replicate_of_fixed (turn_step_of_not_next u (hstep ▸ hstop))⟩
  · have hrun : step (setPC v s) = exec (addOf src) (setPC v s) := step_of_add_held src (setPC v s) h0 h1
    have hexec := exec_addOf src (setPC v s)
    rw [session_step_of_not_next s _ hstop]
    exact ⟨_, hrun.trans hexec, hexec⟩
  · rw [session_step_of_not_next s _ hstop]
    exact step_of_held_at_PC s b0 i hdec
  · rw [session_step_of_not_next s _ hstop]
    exact step_of_held_second s b0 b1 i h0 ((twoByteFormat_iff_needsSecond b0).mp htwo) hpc hdec

/-! ## Add over the naturals -/

theorem addResult_eq_ofNat (a v : Byte) : addResult a v = BitVec.ofNat 8 ((a.toNat + v.toNat) % 256) := by
  rw [← addResult_toNat, BitVec.ofNat_toNat, BitVec.setWidth_eq]

/-- The flags the machine computes are those of 41_alu_add.md R151. -/
theorem addFlags_eq_flagsOfAdd (a v : Byte) : addFlags a v = Claims.flagsOfAdd a v := by
  have hH := addH_iff_lt a v
  rw [addResult_toNat] at hH
  rw [addFlags, Claims.flagsOfAdd, Flags.mk.injEq]
  exact ⟨Bool.eq_iff_iff.mpr (by simp [addZ_iff]), rfl, Bool.eq_iff_iff.mpr (by simp [hH]),
    Bool.eq_iff_iff.mpr (by simp [addC_iff])⟩

theorem advancePC_eq_ofNat (pc : Word) (len : Nat) :
    advancePC pc len = BitVec.ofNat 16 ((pc.toNat + len) % 65536) := by
  apply BitVec.eq_of_toNat_eq
  simp [advancePC, BitVec.toNat_add]

/-- `Add(src)` answers the state of 41_alu_add.md R150, with the length by source. -/
theorem exec_addOf_eq_afterAdd (src : ArithSource) (s : State) :
    exec (addOf src) s = .next (Claims.afterAdd (resolve src s).1 src.length (resolve src s).2 s) := by
  rw [exec_addOf, addResult_eq_ofNat, addFlags_eq_flagsOfAdd, advancePC_eq_ofNat]
  rfl

/-- Settles O37: the machine's sum, flags and `PC` are R150's over the naturals, and the length is by source. -/
theorem executeOfAnyAddValue : Obligations.ExecuteOfAnyAddValue := by
  intro src s
  rw [exec_addOf_eq_afterAdd]
  cases src <;> rfl

/-! ## The resolver -/

/-- `HL` over the naturals (10_state.md R21). -/
theorem getPair_HL_eq_ofNat (s : State) : getPair .HL s = BitVec.ofNat 16 (s.H.toNat * 256 + s.L.toNat) := by
  have hHL : (getPair .HL s).toNat = s.H.toNat * 256 + s.L.toNat := getPair_toNat .HL s
  rw [← hHL, BitVec.ofNat_toNat, BitVec.setWidth_eq]

/-- Settles O29, source by source; the address of the indirect source is `HL`. -/
theorem resolverReadsItsSource : Obligations.ResolverReadsItsSource := by
  refine ⟨fun _ _ => rfl, fun _ => ⟨rfl, rfl, rfl, rfl, rfl, rfl, rfl⟩, fun _ _ => rfl, fun s => ?_,
    fun s h0 => ⟨?_, step_of_one_byte s 0x86 _ h0 rfl rfl⟩⟩
  · rw [resolve, getPair_HL_eq_ofNat]
  · rw [dataReads_of_86 s h0, ← getPair_HL, getPair_HL_eq_ofNat]

end Sys2Proof.Machine

/-! # Family 41_alu_add: the sum, the four flags, and the nine instructions with semantics -/

namespace Sys2Proof.Machine

/-! ## The flags as comparisons -/

/-- A carry out of bit 3, seen on the accumulator's side (41_alu_add.md R152). -/
theorem addH_iff_lt_left (a v : Byte) : addH a v = true ↔ (addResult a v).toNat % 16 < a.toNat % 16 := by
  rw [addH_iff_carry, addResult_toNat]
  omega

/-- Settles O38: R151's comparison, the carry out of bit 3, and the comparison with the accumulator. -/
theorem halfCarryIsCarryOutOfBitThree : Obligations.HalfCarryIsCarryOutOfBitThree := by
  intro a v
  rw [← addResult_toNat]
  exact ⟨addH_iff_lt a v, addH_iff_carry a v, addH_iff_lt_left a v⟩

/-- The ninth bit is set exactly if the result is below the operand (41_alu_add.md R163). -/
theorem addC_iff_lt_right (a v : Byte) : addC a v = true ↔ (addResult a v).toNat < v.toNat := by
  have ha := a.isLt
  have hv := v.isLt
  rw [addC_iff, addResult_toNat]
  omega

theorem addC_iff_lt_left (a v : Byte) : addC a v = true ↔ (addResult a v).toNat < a.toNat := by
  have ha := a.isLt
  have hv := v.isLt
  rw [addC_iff, addResult_toNat]
  omega

/-- Two bytes sum to a multiple of 256 in two ways only (41_alu_add.md R163). -/
theorem addZ_iff_sum (a v : Byte) : addZ a v = true ↔ a.toNat + v.toNat = 0 ∨ a.toNat + v.toNat = 256 := by
  have ha := a.isLt
  have hv := v.isLt
  rw [addZ_iff]
  omega

theorem addZ_and_not_addC_iff (a v : Byte) : addZ a v = true ∧ addC a v = false ↔ a = 0x00 ∧ v = 0x00 := by
  rw [← Bool.not_eq_true, addZ_iff_sum, addC_iff]
  bv_omega

/-! ## Exchanging the operands -/

theorem addResult_comm (a v : Byte) : addResult a v = addResult v a := by
  rw [addResult_eq, addResult_eq, BitVec.add_comm]

/-- Each flag is a symmetric condition on the operands; Half-Carry in the form of a carry (41_alu_add.md R163). -/
theorem addFlags_comm (a v : Byte) : addFlags a v = addFlags v a := by
  have hZ : addZ a v = addZ v a := by rw [addZ, addZ, addResult_comm]
  have hH : addH a v = addH v a := by rw [Bool.eq_iff_iff, addH_iff_carry, addH_iff_carry, Nat.add_comm]
  have hC : addC a v = addC v a := by rw [Bool.eq_iff_iff, addC_iff, addC_iff, Nat.add_comm]
  rw [addFlags, addFlags, hZ, hH, hC]

/-! ## Particular operands -/

theorem addResult_zero (a : Byte) : addResult a 0x00 = a := by
  exact (addResult_eq a 0x00).trans (BitVec.add_zero a)

/-- Adding zero carries nowhere (41_alu_add.md R153). -/
theorem addFlags_zero (a : Byte) : addFlags a 0x00 = ⟨decide (a = 0x00), false, false, false⟩ := by
  have hZ : addZ a 0x00 = decide (a = 0x00) := by rw [addZ, addResult_zero]; rfl
  have hH : addH a 0x00 = false := by
    rw [← Bool.not_eq_true, addH_iff_lt]
    exact Nat.not_lt_zero _
  have hC : addC a 0x00 = false := by
    rw [← Bool.not_eq_true, addC_iff_lt_right]
    exact Nat.not_lt_zero _
  rw [addFlags, hZ, hH, hC]

/-- Adding 0xFF is a decrement (41_alu_add.md R161). -/
theorem addResult_FF (a : Byte) : addResult a 0xFF = a - 1 := by
  rw [addResult_eq]
  bv_omega

theorem addC_FF_iff (a : Byte) : addC a 0xFF = true ↔ a ≠ 0x00 := by
  rw [addC_iff]
  bv_omega

theorem addH_FF_iff (a : Byte) : addH a 0xFF = true ↔ a.toNat % 16 ≠ 0 := by
  rw [addH_iff_carry]
  bv_omega

/-- A doubling is zero when the top bit alone, or no bit, was set (41_alu_add.md R160). -/
theorem addZ_self_iff (a : Byte) : addZ a a = true ↔ a = 0x00 ∨ a = 0x80 := by
  rw [addZ_iff_sum]
  bv_omega

/-- A doubling carries bit 3 out of the low nibble (41_alu_add.md R160). -/
theorem addH_self (a : Byte) : addH a a = a.getLsbD 3 := by
  rw [Bool.eq_iff_iff, addH_iff_carry, BitVec.getLsbD, Nat.testBit_eq_decide_div_mod_eq, decide_eq_true_iff]
  omega

/-- A doubling carries bit 7 out of the byte (41_alu_add.md R160). -/
theorem addC_self (a : Byte) : addC a a = a.getLsbD 7 := by
  have ha := a.isLt
  rw [Bool.eq_iff_iff, addC_iff, BitVec.getLsbD, Nat.testBit_eq_decide_div_mod_eq, decide_eq_true_iff]
  omega

/-! ## The seven flag bytes -/

/-- A zero result with a carry out of bit 3 carries out of bit 7: its operands are not both zero (41_alu_add.md
R163). -/
theorem addC_of_addZ_of_addH (a v : Byte) (hZ : addZ a v = true) (hH : addH a v = true) : addC a v = true := by
  rw [addZ_iff] at hZ
  rw [addH_iff_carry] at hH
  rw [addC_iff]
  omega

/-- Of the eight combinations of Zero, Half-Carry and Carry one cannot occur (41_alu_add.md R163). -/
theorem addFlags_toByte_mem (a v : Byte) :
    (addFlags a v).toByte ∈ [0x00, 0x10, 0x20, 0x30, 0x80, 0x90, 0xB0] := by
  have hcarry := addC_of_addZ_of_addH a v
  rw [addFlags]
  revert hcarry
  generalize addZ a v = z, addH a v = h, addC a v = c
  revert z h c
  decide

/-- Each of the seven bytes has operands that give it (41_alu_add.md R163). -/
theorem exists_addFlags_toByte_eq_of_mem (b : Byte) (h : b ∈ [0x00, 0x10, 0x20, 0x30, 0x80, 0x90, 0xB0]) :
    ∃ a v, (addFlags a v).toByte = b := by
  simp only [List.mem_cons, List.not_mem_nil, or_false] at h
  rcases h with rfl | rfl | rfl | rfl | rfl | rfl | rfl
  · exact ⟨0x00, 0x01, by decide⟩
  · exact ⟨0xE1, 0xE1, by decide⟩
  · exact ⟨0x0F, 0x01, by decide⟩
  · exact ⟨0xFF, 0xFF, by decide⟩
  · exact ⟨0x00, 0x00, by decide⟩
  · exact ⟨0x80, 0x80, by decide⟩
  · exact ⟨0xFF, 0x01, by decide⟩

/-- Settles O39, flag by flag over the naturals; of the flag bytes only 0xA0 is excluded. -/
theorem addFlagConsequences : Obligations.AddFlagConsequences := by
  refine ⟨fun a v => ⟨addC_iff_lt_right a v, addC_iff_lt_left a v, addZ_iff_sum a v, addZ_and_not_addC_iff a v,
    addResult_comm a v, addFlags_comm a v, addResult_zero a, ?_, ?_, ?_⟩,
    fun b => ⟨?_, exists_addFlags_toByte_eq_of_mem b⟩⟩
  · rw [addFlags_zero]
  · rw [addFlags_zero]
  · rw [addFlags_zero, decide_eq_true_iff]
  · rintro ⟨a, v, rfl⟩
    exact addFlags_toByte_mem a v

/-- Settles O41: an OK step executed an Add, so its flags are Add's. -/
theorem okStepLeavesOneOfSevenFlagBytes : Obligations.OkStepLeavesOneOfSevenFlagBytes := by
  intro s t hstep
  obtain ⟨_, src, -, -, -, rfl⟩ := step_next s t hstep
  exact addFlags_toByte_mem s.A (resolve src s).1

/-! ## What `Add(src)` does, for every source -/

/-- `A` and the flags come from the operand alone, and the old flags do not matter (41_alu_add.md R151). -/
theorem addOf_addsToAccumulator (src : ArithSource) :
    Claims.AddsToAccumulator (addOf src) (fun s => (resolve src s).1) := by
  intro s
  refine ⟨_, exec_addOf_eq_afterAdd src s, rfl, rfl, Flags.toByte_toNat_mod _, fun f => ?_⟩
  rw [exec_setF, exec_addOf_eq_afterAdd]

/-- Settles O30: each of the nine instructions is `Add` of its source. -/
theorem addRecomputesAccumulatorAndAllFlags : Obligations.AddRecomputesAccumulatorAndAllFlags :=
  ⟨addOf_addsToAccumulator (.reg .B), addOf_addsToAccumulator (.reg .C), addOf_addsToAccumulator (.reg .D),
    addOf_addsToAccumulator (.reg .E), addOf_addsToAccumulator (.reg .H), addOf_addsToAccumulator (.reg .L),
    addOf_addsToAccumulator .indirect, addOf_addsToAccumulator (.reg .Acc),
    fun n => addOf_addsToAccumulator (.immediate n)⟩

/-- `A` and the flags byte after `Add(src)` where the operands are known. -/
theorem exec_addOf_of_operands (src : ArithSource) {s : State} {a v r f : Byte} (hA : s.A = a)
    (hv : (resolve src s).1 = v) (hr : addResult a v = r) (hf : (addFlags a v).toByte = f) :
    ∃ t, exec (addOf src) s = .next t ∧ t.A = r ∧ t.F.toByte = f := by
  subst hA hv hr hf
  exact ⟨_, exec_addOf src s, rfl, rfl⟩

/-- `PC` after `Add(src)` (41_alu_add.md R165). -/
theorem exec_addOf_advances_PC (src : ArithSource) (s : State) :
    ∃ t, exec (addOf src) s = .next t ∧ t.PC.toNat = (s.PC.toNat + src.length) % 65536 := by
  refine ⟨_, exec_addOf src s, ?_⟩
  rw [commit_PC, advancePC_eq_ofNat, BitVec.toNat_ofNat, Nat.mod_mod]

/-! ## Add of a register -/

/-- The encoding of Add of a register is one byte, of a one-byte format, and not that of Add(Indirect)
(30_encoding.md R95, R96). -/
theorem addOf_reg_opcode (x : Reg8) {b0 : Byte} (h : encode (addOf (.reg x)) = [b0]) :
    needsSecond b0 = false ∧ decode [b0] = some (addOf (.reg x)) ∧ b0 ≠ 0x86 := by
  cases x <;> (obtain rfl := List.singleton_inj.mp h; decide)

/-- A step on a one-byte format other than Add(Indirect) reads the byte at `PC` alone (20_memory.md R75). -/
theorem stepReads_of_one_byte (s : State) (b0 : Byte) (h0 : fetch s.mem s.PC = some b0)
    (hn : needsSecond b0 = false) (hb : b0 ≠ 0x86) : stepReads s = [.fetch s.PC] := by
  rw [stepReads_of_ne_86 s (by simpa [h0] using hb), fetchReads_of_one_byte s b0 h0 hn]

theorem addOf_reg_registerAdd (x : Reg8) {b0 : Byte} (h : encode (addOf (.reg x)) = [b0]) :
    Claims.RegisterAdd (addOf (.reg x)) b0 (getReg x) := by
  obtain ⟨hn, hdec, hb⟩ := addOf_reg_opcode x h
  have hexec := exec_addOf_eq_afterAdd (.reg x)
  refine ⟨fun rest => (decode_first_alone b0 rest hn).trans hdec, h, hexec, fun s h0 => ⟨?_, ?_⟩⟩
  · exact (step_of_one_byte s b0 _ h0 hn hdec).trans (hexec s)
  · exact stepReads_of_one_byte s b0 h0 hn hb

/-- Settles O32: the six are Add of a register, and the examples evaluate the sum and its flags. -/
theorem addOfARegisterWholeEffect : Obligations.AddOfARegisterWholeEffect := by
  refine ⟨addOf_reg_registerAdd .B rfl, addOf_reg_registerAdd .C rfl, addOf_reg_registerAdd .D rfl,
    addOf_reg_registerAdd .E rfl, addOf_reg_registerAdd .H rfl, addOf_reg_registerAdd .L rfl,
    fun s hB => ?_, fun s hA hB => ?_, fun s hA hC => ?_, fun s hA hD => ?_, fun s hA hE => ?_, fun s hA hH => ?_,
    fun s hA hL => ?_⟩
  · refine exec_addOf_of_operands (.reg .B) rfl hB (addResult_zero s.A) ?_
    rw [addFlags_zero]
    split
    · next hA => rw [decide_eq_true hA]; rfl
    · next hA => rw [decide_eq_false hA]; rfl
  · exact exec_addOf_of_operands (.reg .B) hA hB (by decide) (by decide)
  · exact exec_addOf_of_operands (.reg .C) hA hC (by decide) (by decide)
  · exact exec_addOf_of_operands (.reg .D) hA hD (by decide) (by decide)
  · exact exec_addOf_of_operands (.reg .E) hA hE (by decide) (by decide)
  · exact exec_addOf_of_operands (.reg .H) hA hH (by decide) (by decide)
  · exact exec_addOf_of_operands (.reg .L) hA hL (by decide) (by decide)

/-- Settles O33: Add of a register whose value is the accumulator's own. -/
theorem addOfTheAccumulatorDoubles : Obligations.AddOfTheAccumulatorDoubles := by
  refine ⟨addOf_reg_registerAdd .Acc rfl, fun s => ⟨_, exec_addOf (.reg .Acc) s, ?_, addZ_self_iff s.A, rfl,
    addH_self s.A, addC_self s.A⟩⟩
  rw [commit_A, addResult_toNat, Nat.two_mul]
  rfl

/-! ## Add of the byte at `HL` -/

/-- Settles O34: `Add` of the indirect source, whose one data read is that of a step on 0x86. -/
theorem addOfTheIndirectByteWholeEffect : Obligations.AddOfTheIndirectByteWholeEffect := by
  refine ⟨Laws.RoundTrip.addIndirect rfl, rfl, fun s => ⟨exec_addOf_eq_afterAdd .indirect s,
    fetch_eq_of_cells (memRead_cells s.mem (s.H ++ s.L)), fun h0 => ⟨?_, ?_⟩⟩⟩
  · exact step_of_one_byte s 0x86 _ h0 rfl rfl
  · rw [stepReads, fetchReads_of_one_byte s 0x86 h0 rfl, dataReads_of_86 s h0, List.singleton_append]

/-! ## Add of an immediate -/

theorem fetchSecond_eq_none_iff (s : State) : fetchSecond s.mem s.PC = none ↔ Claims.SecondAbsent s := by
  rw [← not_iff_not, ← ne_eq, fetchSecond_ne_none_iff, Claims.SecondAbsent, not_or]

/-- Settles O36: `Add` of the immediate source; its window is that of 0xC6, with or without a second byte. -/
theorem addOfAnImmediateWholeEffect : Obligations.AddOfAnImmediateWholeEffect := by
  refine ⟨fun n => Laws.RoundTrip.addImmediate n rfl, fun _ => rfl, fun n => exec_addOf_eq_afterAdd (.immediate n),
    fun n s h0 hpc h1 => ⟨?_, ?_⟩, fun s h0 habs => ?_, fun s => ?_, fun s => ?_, fun s hA => ?_⟩
  · exact step_of_two_bytes s 0xC6 n _ h0 rfl hpc h1 rfl
  · rw [stepReads_of_needsSecond s 0xC6 h0 rfl, fetchReads_of_two_bytes s 0xC6 h0 rfl hpc]
  · exact step_of_second_absent s 0xC6 h0 rfl ((fetchSecond_eq_none_iff s).mpr habs)
  · exact ⟨_, exec_addOf (.immediate 0x00) s, addResult_zero s.A⟩
  · exact ⟨_, exec_addOf (.immediate 0xFF) s, addResult_FF s.A, rfl, addC_FF_iff s.A, addH_FF_iff s.A⟩
  · exact exec_addOf_of_operands (.immediate 0x01) (v := 0x01) hA rfl (by decide) (by decide)

/-! ## The advance of `PC` -/

/-- The bytes 0x80 to 0x87 decode alone, to Add of the source their low bits name (30_encoding.md R96). -/
theorem decode_add_opcode (b0 : Byte) (hlo : 0x80 ≤ b0.toNat) (hhi : b0.toNat ≤ 0x87) :
    needsSecond b0 = false ∧ decode [b0] = some (addOf (fromOpcode b0)) := by
  have hblk : blkOf b0 = 2#2 := (blkOf_eq_2_iff b0).mpr ⟨hlo, by omega⟩
  have hop : opOf b0 = 0#3 := (opOf_eq_0_iff_of_block2 b0 hblk).mpr hhi
  refine ⟨?_, by rw [decode_block2 b0 [] hblk, hop]; rfl⟩
  rw [← Bool.not_eq_true]
  exact fun hn => not_80_to_87_of_needsSecond b0 hn ⟨hlo, hhi⟩

/-- Settles O40: the step executes `Add` of a source of length 1, or of the literal byte, of length 2. -/
theorem addAdvancesPCByItsLength : Obligations.AddAdvancesPCByItsLength := by
  refine fun s b0 h0 => ⟨fun hlo hhi => ?_, fun hb hpresent => ?_⟩
  · obtain ⟨hn, hdec⟩ := decode_add_opcode b0 hlo hhi
    have hlen : (fromOpcode b0).length = 1 := sourceOfCode_length (rOf b0)
    rw [step_of_one_byte s b0 _ h0 hn hdec, ← hlen]
    exact exec_addOf_advances_PC (fromOpcode b0) s
  · subst hb
    obtain ⟨hpc, h1⟩ := not_or.mp hpresent
    obtain ⟨n, hn⟩ := Option.ne_none_iff_exists'.mp h1
    rw [step_of_two_bytes s 0xC6 n (addOf (.immediate n)) h0 rfl hpc hn rfl]
    exact exec_addOf_advances_PC (.immediate n) s

end Sys2Proof.Machine

/-! # Family 42_unimplemented: the advance of `PC` over runs, and the rows without semantics -/

namespace Sys2Proof

/-! ## Lengths and leading bytes -/

/-- `Add(src)` is one or two bytes long (40_step_and_operands.md R133). -/
theorem ArithSource.length_bounds (src : ArithSource) : 1 ≤ src.length ∧ src.length ≤ 2 := by
  cases src <;> simp [ArithSource.length]

/-- The three fields of an opcode byte as a number (30_encoding.md R91). -/
theorem opcodeByte_eq_ofNat (blk : BitVec 2) (op r : BitVec 3) :
    opcodeByte blk op r = BitVec.ofNat 8 (64 * blk.toNat + 8 * op.toNat + r.toNat) := by
  revert blk op r; decide

/-- A byte that is a whole window of a row without semantics needs no second byte (30_encoding.md R103). -/
theorem needsSecond_eq_false_of_unimplemented {b0 x : Byte} {c : UnimplClass} {y : Option Byte}
    (hres : decodeResult [b0] = .unimplemented c x y) : needsSecond b0 = false := by
  rw [← Bool.not_eq_true]
  intro hn
  simp [decodeResult_of_none (decode_single_of_needsSecond b0 hn)] at hres

/-- The leading bytes of format ALU-I with an operation other than 0 (42_unimplemented.md R184). -/
theorem aluImm_op_ne_zero_of_mem (b0 : Byte) (h : b0.toNat ∈ [0xCE, 0xD6, 0xDE, 0xE6, 0xEE, 0xF6, 0xFE]) :
    blkOf b0 = 3#2 ∧ rOf b0 = 6#3 ∧ opOf b0 ≠ 0#3 := by
  obtain ⟨hblk, hr⟩ := (aluImm_iff b0).mpr (List.mem_cons_of_mem 0xC6 h)
  refine ⟨hblk, hr, fun hop => ?_⟩
  obtain rfl := (opOf_eq_0_iff_of_aluImm b0 hblk hr).mp hop
  exact absurd h (by decide)

end Sys2Proof

namespace Sys2Proof.Machine

/-! ## The advance of `PC` -/

/-- An OK step moves `PC` on by one or two bytes (42_unimplemented.md R188). -/
theorem step_next_advances_PC {s t : State} (h : step s = .next t) :
    ∃ len, 1 ≤ len ∧ len ≤ 2 ∧ t.PC.toNat = (s.PC.toNat + len) % 65536 := by
  obtain ⟨_, src, -, -, -, rfl⟩ := step_next s t h
  obtain ⟨hlo, hhi⟩ := ArithSource.length_bounds src
  refine ⟨src.length, hlo, hhi, ?_⟩
  rw [commit_PC, advancePC_eq_ofNat, BitVec.toNat_ofNat, Nat.mod_mod]

/-- Settles O44, by induction on the number of steps, each of which adds its own advance. -/
theorem runsAdvancePCSequentially : Obligations.RunsAdvancePCSequentially := by
  intro n
  induction n with
  | zero =>
    intro s t hrun
    obtain rfl := (runsOk_zero_iff s t).mp hrun
    exact ⟨0, le_rfl, le_rfl, (Nat.mod_eq_of_lt s.PC.isLt).symm⟩
  | succ n ih =>
    intro s t hrun
    obtain ⟨u, hstep, hrest⟩ := (runsOk_succ_iff n s t).mp hrun
    obtain ⟨len, hlo, hhi, hu⟩ := step_next_advances_PC hstep
    obtain ⟨k, hnk, hk, ht⟩ := ih u t hrest
    refine ⟨len + k, by omega, by omega, ?_⟩
    calc t.PC.toNat = ((s.PC.toNat + len) % 65536 + k) % 65536 := by rw [ht, hu]
      _ = (s.PC.toNat + (len + k)) % 65536 := by rw [Nat.mod_add_mod, Nat.add_assoc]

/-! ## A refusal follows the decode result -/

/-- A row without semantics is refused with what its decode result reports (42_unimplemented.md R187). -/
theorem exec_of_result_unimplemented {i : Instr} {c : UnimplClass} {b0 : Byte} {b1 : Option Byte}
    (hres : i.result = .unimplemented c b0 b1) (s : State) : exec i s = .refused (.unimplemented c b0 b1) := by
  rcases exec_cases i s with ⟨src, -, rfl, -⟩ | ⟨c', x, y, -, hres', hexec⟩
  · simp at hres
  · obtain ⟨rfl, rfl, rfl⟩ := DecodeResult.unimplemented.inj (hres.symm.trans hres')
    exact hexec

/-- A fault leaves the state (42_unimplemented.md R180). -/
theorem turn_step_of_fault {s : State} {r : Fault} (h : step s = .fault r) : turn .step s = s :=
  turn_step_of_not_next s (by simp [h])

/-- A refusal leaves the state (42_unimplemented.md R180). -/
theorem turn_step_of_refused {s : State} {r : Refusal} (h : step s = .refused r) : turn .step s = s :=
  turn_step_of_not_next s (by simp [h])

/-- A window without semantics is refused (42_unimplemented.md R187). -/
theorem step_of_window_unimplemented {s : State} {c : UnimplClass} {b0 : Byte} {b1 : Option Byte}
    (hres : decodeResult (fetchWindow s) = .unimplemented c b0 b1) :
    step s = .refused (.unimplemented c b0 b1) := by
  cases hdec : decode (fetchWindow s) with
  | none => simp [decodeResult_of_none hdec] at hres
  | some i =>
    rw [decodeResult_of_some hdec] at hres
    rw [step_of_decode_some s i hdec, exec_of_result_unimplemented hres s]

/-- A byte refused from the first byte alone: the step reads that byte and no other, and leaves the state
(42_unimplemented.md R180 to R183, R186). -/
theorem step_refused_from_first_byte {c : UnimplClass} {b0 : Byte}
    (hres : decodeResult [b0] = .unimplemented c b0 none) (s : State) (h0 : fetch s.mem s.PC = some b0) :
    step s = .refused (.unimplemented c b0 none) ∧ stepReads s = [.fetch s.PC] ∧ turn .step s = s := by
  have hn := needsSecond_eq_false_of_unimplemented hres
  have hstep : step s = .refused (.unimplemented c b0 none) :=
    step_of_window_unimplemented (by rw [fetchWindow_of_one_byte s b0 h0 hn, hres])
  have hb : b0 ≠ 0x86 := by
    rintro rfl
    exact DecodeResult.noConfusion hres
  exact ⟨hstep, stepReads_of_one_byte s b0 h0 hn hb, turn_step_of_refused hstep⟩

/-- A two-byte format without semantics: too short without its second byte, refused with it, and the state left
either way (42_unimplemented.md R184, R185). -/
theorem step_refused_with_second_byte {c : UnimplClass} {b0 : Byte} (hn : needsSecond b0 = true)
    (hres : ∀ n, decodeResult [b0, n] = .unimplemented c b0 (some n)) (s : State)
    (h0 : fetch s.mem s.PC = some b0) :
    (Claims.SecondAbsent s → step s = .fault .decodeInvalid ∧ turn .step s = s) ∧
    ∀ n, s.PC ≠ 0xFFFF → fetch s.mem (s.PC + 1) = some n →
      step s = .refused (.unimplemented c b0 (some n)) ∧ turn .step s = s := by
  refine ⟨fun habs => ?_, fun n hpc h1 => ?_⟩
  · have hstep := step_of_second_absent s b0 h0 hn ((fetchSecond_eq_none_iff s).mpr habs)
    exact ⟨hstep, turn_step_of_fault hstep⟩
  · have hstep : step s = .refused (.unimplemented c b0 (some n)) :=
      step_of_window_unimplemented (by rw [fetchWindow_of_two_bytes s b0 n h0 hn hpc h1, hres])
    exact ⟨hstep, turn_step_of_refused hstep⟩

/-! ## Blocks 0 and 1 -/

/-- Settles O45: block 0 decodes to its own row, which is refused from the first byte. -/
theorem blockZeroIsRefused : Obligations.BlockZeroIsRefused := by
  refine ⟨fun _ => exec_of_result_unimplemented rfl, fun b0 rest hhi => ?_⟩
  have hblk : blkOf b0 = 0#2 := (blkOf_eq_iff b0 0#2).mpr (by rw [BitVec.toNat_ofNat]; omega)
  have hdec := fun tail => decode_block0 b0 tail hblk
  exact ⟨hdec rest, decodeResult_of_some (hdec rest),
    step_refused_from_first_byte (decodeResult_of_some (hdec []))⟩

/-- Settles O46: block 1 decodes to its own row, which is refused from the first byte. -/
theorem blockOneIsRefused : Obligations.BlockOneIsRefused := by
  refine ⟨fun _ => exec_of_result_unimplemented rfl, fun b0 rest hlo hhi => ?_⟩
  have hblk : blkOf b0 = 1#2 := (blkOf_eq_iff b0 1#2).mpr (by rw [BitVec.toNat_ofNat]; omega)
  have hdec := fun tail => decode_block1 b0 tail hblk
  exact ⟨hdec rest, decodeResult_of_some (hdec rest),
    step_refused_from_first_byte (decodeResult_of_some (hdec []))⟩

/-! ## Operations 1 to 7 -/

/-- Operations 1 to 7 of format ALU-R are refused with their byte, for every register code (42_unimplemented.md
R183). -/
theorem exec_decodeBlock2_of_op_ne_zero (op r : BitVec 3) (hop : op ≠ 0#3) (s : State) :
    exec (decodeBlock2 op r) s =
      .refused (.unimplemented .block2Op (BitVec.ofNat 8 (0x80 + 8 * op.toNat + r.toNat)) none) := by
  have hres := decodeBlock2_result op r
  rw [if_neg hop, opcodeByte_eq_ofNat] at hres
  exact exec_of_result_unimplemented hres s

/-- Settles O47: the rows are format ALU-R at the operations 1 to 7, and their bytes those of block 2 past 0x87. -/
theorem blockTwoOperationsOneToSevenAreRefused : Obligations.BlockTwoOperationsOneToSevenAreRefused := by
  constructor
  · intro r s
    have hexec := fun op hop => exec_decodeBlock2_of_op_ne_zero op r hop s
    exact ⟨hexec 1 (by decide), hexec 2 (by decide), hexec 3 (by decide), hexec 4 (by decide),
      hexec 5 (by decide), hexec 6 (by decide), hexec 7 (by decide)⟩
  · intro b0 rest hlo hhi
    have hblk : blkOf b0 = 2#2 := (blkOf_eq_2_iff b0).mpr ⟨by omega, hhi⟩
    have hop : opOf b0 ≠ 0#3 := by
      rw [ne_eq, opOf_eq_0_iff_of_block2 b0 hblk]
      omega
    have hres : ∀ tail, decodeResult (b0 :: tail) = .unimplemented .block2Op b0 none :=
      fun tail => (decodeResult_block2 b0 tail hblk).trans (if_neg hop)
    exact ⟨hres rest, step_refused_from_first_byte (hres [])⟩

/-- Settles O48: the seven bytes are format ALU-I, whose length is checked before its operation. -/
theorem blockThreeImmediateOperationsOneToSevenAreRefused :
    Obligations.BlockThreeImmediateOperationsOneToSevenAreRefused := by
  constructor
  · intro n s
    and_intros <;> exact exec_of_result_unimplemented rfl s
  · intro b0 hb
    obtain ⟨hblk, hr, hop⟩ := aluImm_op_ne_zero_of_mem b0 hb
    have hres : ∀ n rest, decodeResult (b0 :: n :: rest) = .unimplemented .block3ImmOp b0 (some n) :=
      fun n rest => (decodeResult_aluImm b0 n rest hblk hr).trans (if_neg hop)
    exact ⟨decodeResult_aluImm_alone b0 hblk hr, hres,
      step_refused_with_second_byte (needsSecond_aluImm b0 hblk hr) fun n => hres n []⟩

/-! ## The escape and the rest of block 3 -/

/-- Settles O49: 0xCB decodes with every second byte to the one row of the escape. -/
theorem theEscapeByteIsRefused : Obligations.TheEscapeByteIsRefused := by
  have hdec : ∀ sel rest, decode (0xCB :: sel :: rest) = some (.prefixed sel) :=
    fun sel => Laws.RoundTrip.prefixed sel rfl
  have hres := fun sel rest => decodeResult_of_some (hdec sel rest)
  exact ⟨fun _ => exec_of_result_unimplemented rfl,
    decodeResult_of_none (decode_single_of_needsSecond 0xCB rfl),
    fun sel rest => ⟨hdec sel rest, hres sel rest⟩,
    step_refused_with_second_byte rfl fun sel => hres sel []⟩

/-- Settles O50: each of the nine rows reports its byte, and the 55 bytes are those of block 3 outside ALU-I and
the escape. -/
theorem theRestOfBlockThreeIsRefused : Obligations.TheRestOfBlockThreeIsRefused := by
  constructor
  · intro b0 s
    and_intros <;> exact exec_of_result_unimplemented rfl s
  · intro b0 rest hlo hr6 hCB
    have hb0 := b0.isLt
    have hblk : blkOf b0 = 3#2 := (blkOf_eq_iff b0 3#2).mpr (by rw [BitVec.toNat_ofNat]; omega)
    have hr : rOf b0 ≠ 6#3 := fun h => hr6 ((rOf_eq_iff b0 6).mp h)
    have hcb : b0 ≠ 0xCB#8 := fun h => hCB (congrArg BitVec.toNat h)
    have hres := fun tail => decodeResult_block3Other b0 tail hblk hr hcb
    exact ⟨hres rest, step_refused_from_first_byte (hres [])⟩

end Sys2Proof.Machine

/-! # Family 60_exceptions: the three outcomes of a step, and exactly when each non-OK one is reported -/

namespace Sys2Proof

/-! ## What a decode result says of the row -/

/-- Only a window too short gives the result Invalid (30_encoding.md R105). -/
theorem decode_eq_none_of_invalid {w : List Byte} (h : decodeResult w = .invalid) : decode w = none := by
  cases hdec : decode w with
  | none => rfl
  | some i =>
    rw [decodeResult_of_some hdec] at h
    rcases result_cases i with ⟨-, n, hres⟩ | ⟨-, c, x, y, hres⟩ <;> simp [hres] at h

/-- The result Ok carries the row the window decodes to, which is an Add (40_step_and_operands.md R135). -/
theorem decode_of_ok {w : List Byte} {i : Instr} {n : Nat} (h : decodeResult w = .ok i n) :
    ∃ src, i = addOf src ∧ decode w = some (addOf src) := by
  cases hdec : decode w with
  | none => simp [decodeResult_of_none hdec] at h
  | some j =>
    rw [decodeResult_of_some hdec] at h
    rcases Machine.exec_cases j Machine.State.reset with ⟨src, -, rfl, -⟩ | ⟨c, x, y, -, hres, -⟩
    · rw [addOf_result] at h
      obtain ⟨rfl, -⟩ := DecodeResult.ok.inj h
      exact ⟨src, rfl, rfl⟩
    · simp [hres] at h

/-- A window of one byte whose format needs no second is long enough (30_encoding.md R94). -/
theorem decode_single_ne_none (b0 : Byte) (h : needsSecond b0 = false) : decode [b0] ≠ none := by
  obtain ⟨i, hdec, -⟩ := decode_single_inRow b0 h
  simp [hdec]

/-- A window of two bytes is long enough for every format (30_encoding.md R94). -/
theorem decode_pair_ne_none (b0 b1 : Byte) : decode [b0, b1] ≠ none := by
  obtain ⟨i, hdec, -⟩ := decode_inRow b0 b1
  simp [hdec]

/-! ## The classes of leading bytes -/

/-- The classes and the nine Add opcodes cover every leading byte (60_exceptions.md R202, 30_encoding.md R94). -/
theorem exists_inClass (b0 : Byte) (h : ¬ ((0x80 ≤ b0.toNat ∧ b0.toNat ≤ 0x87) ∨ b0.toNat = 0xC6)) :
    ∃ c, Claims.InClass c b0.toNat := by
  obtain ⟨hadd, hC6⟩ := not_or.mp h
  have hb0 := b0.isLt
  by_cases h0 : b0.toNat ≤ 0x3F
  · exact ⟨.block0, h0⟩
  by_cases h1 : b0.toNat ≤ 0x7F
  · exact ⟨.block1, by omega, h1⟩
  by_cases h2 : b0.toNat ≤ 0xBF
  · exact ⟨.block2Op, by omega, h2⟩
  by_cases hcb : b0.toNat = 0xCB
  · exact ⟨.prefixed, hcb⟩
  by_cases hr : b0.toNat % 8 = 6
  · obtain ⟨hblk, hr'⟩ : blkOf b0 = 3#2 ∧ rOf b0 = 6#3 :=
      ⟨(blkOf_eq_iff b0 3#2).mpr (by rw [BitVec.toNat_ofNat]; omega), (rOf_eq_iff b0 6#3).mpr hr⟩
    exact ⟨.block3ImmOp, List.mem_of_ne_of_mem hC6 ((aluImm_iff b0).mp ⟨hblk, hr'⟩)⟩
  · exact ⟨.block3Other, by omega, by omega, hr, hcb⟩

/-- The two classes that report a second byte are two-byte formats (60_exceptions.md R202). -/
theorem twoByteFormat_of_inClass {c : UnimplClass} {n : Nat} (hc : Claims.InClass c n)
    (htwo : c = .block3ImmOp ∨ c = .prefixed) : Claims.TwoByteFormat n := by
  rcases htwo with rfl | rfl
  · have hmem : n ∈ [0xCE, 0xD6, 0xDE, 0xE6, 0xEE, 0xF6, 0xFE] := hc
    simp only [List.mem_cons, List.not_mem_nil, or_false] at hmem
    exact .inr (by omega)
  · exact .inl hc

end Sys2Proof

namespace Sys2Proof.Machine

/-! ## The outcome by the decode result -/

/-- A window with semantics is executed, and writes `A`, `F`, `PC` and the collaborator (60_exceptions.md R200). -/
theorem step_of_window_ok {s : State} {i : Instr} {n : Nat} (hres : decodeResult (fetchWindow s) = .ok i n) :
    ∃ t, step s = .next t ∧ exec i s = .next t ∧ t = { s with A := t.A, F := t.F, PC := t.PC, mem := t.mem } := by
  obtain ⟨src, rfl, hdec⟩ := decode_of_ok hres
  have hexec := exec_addOf src s
  exact ⟨_, (step_of_decode_some s _ hdec).trans hexec, hexec, rfl⟩

theorem step_of_window_invalid {s : State} (hres : decodeResult (fetchWindow s) = .invalid) :
    step s = .fault .decodeInvalid :=
  step_of_decode_none s (decode_eq_none_of_invalid hres)

/-- A step has no outcome but the three of the spec (60_exceptions.md R200). -/
theorem step_specOutcome (s : State) : SpecOutcome (step s) := by
  cases hres : decodeResult (fetchWindow s) with
  | ok i n =>
    obtain ⟨t, hstep, -, -⟩ := step_of_window_ok hres
    exact .inl ⟨t, hstep⟩
  | invalid => exact .inr (.inl (step_of_window_invalid hres))
  | unimplemented c b0 b1 => exact .inr (.inr ⟨c, b0, b1, step_of_window_unimplemented hres⟩)

/-- Settles O21, by the three decode results of the fetch window. -/
theorem stepEndsInOneOfThreeOutcomes : Obligations.StepEndsInOneOfThreeOutcomes := by
  refine fun s => ⟨step_specOutcome s, fun i n hres => ?_, fun hres => ?_, fun c b0 b1 hres => ?_⟩
  · obtain ⟨t, hstep, hexec, hframe⟩ := step_of_window_ok hres
    exact ⟨t, hstep, hexec, by rw [turn, hstep, stateAfter], hframe⟩
  · have hstep := step_of_window_invalid hres
    exact ⟨hstep, turn_step_of_fault hstep⟩
  · have hstep := step_of_window_unimplemented hres
    exact ⟨hstep, turn_step_of_refused hstep⟩

/-! ## When a step is `DecodeInvalid` -/

/-- A step faults exactly if its window is too short: no row's meaning raises a fault (60_exceptions.md R201). -/
theorem step_isFault_iff (s : State) : (∃ r, step s = .fault r) ↔ decode (fetchWindow s) = none := by
  rcases step_of_decode s with ⟨hdec, hstep⟩ | ⟨i, hdec, hstep⟩
  · exact iff_of_true ⟨_, hstep⟩ hdec
  · rcases exec_cases i s with ⟨src, -, -, hexec⟩ | ⟨c, b0, b1, -, -, hexec⟩
    · simp [hdec, hstep, hexec, executeAdd_next]
    · simp [hdec, hstep, hexec]

/-- Settles O22, by the four forms of the fetch window. -/
theorem decodeInvalidExactlyWhenAByteIsAbsent : Obligations.DecodeInvalidExactlyWhenAByteIsAbsent := by
  intro s
  simp only [step_isFault_iff, twoByteFormat_iff_needsSecond, ← fetchSecond_eq_none_iff]
  rcases fetchWindow_cases s with ⟨h0, hw⟩ | ⟨b0, h0, hn, hw⟩ | ⟨b0, h0, hn, h1, hw⟩ | ⟨b0, b1, h0, hn, h1, hw⟩
  · simp [hw, h0]
  · simp [hw, h0, hn, decode_single_ne_none b0 hn]
  · simp [hw, h0, hn, h1, decode_single_of_needsSecond b0 hn]
  · simp [hw, h0, h1, decode_pair_ne_none b0 b1]

/-! ## When a step is `Unimplemented` -/

/-- A byte of a class that reports no second byte is refused alone (60_exceptions.md R202): the statements of
42_unimplemented.md R181 to R183 and R186, class by class. -/
theorem step_refused_of_inClass_one {s : State} {c : UnimplClass} {b0 : Byte} (h0 : fetch s.mem s.PC = some b0)
    (hc : Claims.InClass c b0.toNat) (hone : ¬ (c = .block3ImmOp ∨ c = .prefixed)) :
    step s = .refused (.unimplemented c b0 none) := by
  cases c with
  | block0 =>
    obtain ⟨-, -, hstep⟩ := blockZeroIsRefused.2 b0 [] hc
    exact (hstep s h0).1
  | block1 =>
    obtain ⟨-, -, hstep⟩ := blockOneIsRefused.2 b0 [] hc.1 hc.2
    exact (hstep s h0).1
  | block2Op =>
    obtain ⟨-, hstep⟩ := blockTwoOperationsOneToSevenAreRefused.2 b0 [] hc.1 hc.2
    exact (hstep s h0).1
  | block3Other =>
    obtain ⟨hlo, -, hr, hcb⟩ := hc
    obtain ⟨-, hstep⟩ := theRestOfBlockThreeIsRefused.2 b0 [] hlo hr hcb
    exact (hstep s h0).1
  | block3ImmOp => exact absurd (.inl rfl) hone
  | prefixed => exact absurd (.inr rfl) hone

/-- A byte of the other two classes is refused with the second byte (60_exceptions.md R202; 42_unimplemented.md R184,
R185). -/
theorem step_refused_of_inClass_two {s : State} {c : UnimplClass} {b0 b1 : Byte} (h0 : fetch s.mem s.PC = some b0)
    (hc : Claims.InClass c b0.toNat) (htwo : c = .block3ImmOp ∨ c = .prefixed) (hpc : s.PC ≠ 0xFFFF)
    (h1 : fetch s.mem (s.PC + 1) = some b1) : step s = .refused (.unimplemented c b0 (some b1)) := by
  rcases htwo with rfl | rfl
  · obtain ⟨-, -, hstep⟩ := blockThreeImmediateOperationsOneToSevenAreRefused.2 b0 hc
    exact ((hstep s h0).2 b1 hpc h1).1
  · obtain rfl : b0 = 0xCB := BitVec.eq_of_toNat_eq hc
    obtain ⟨-, -, -, hstep⟩ := theEscapeByteIsRefused
    exact ((hstep s h0).2 b1 hpc h1).1

/-- A refused step has a byte of some class at `PC`, and the second byte where the format needs it: otherwise it
would be `DecodeInvalid` or OK (60_exceptions.md R209). -/
theorem exists_inClass_of_refused {s : State} {r : Refusal} (h : step s = .refused r) :
    ∃ b0 c, fetch s.mem s.PC = some b0 ∧ Claims.InClass c b0.toNat ∧
      (Claims.TwoByteFormat b0.toNat → ¬ Claims.SecondAbsent s) := by
  have hfault : ¬ ∃ r, step s = .fault r := by simp [h]
  have hok : ¬ ∃ t, step s = .next t := by simp [h]
  rw [decodeInvalidExactlyWhenAByteIsAbsent s, not_or] at hfault
  rw [okExactlyForTheAddOpcodes s] at hok
  obtain ⟨hheld, hpresent⟩ := hfault
  obtain ⟨b0, h0⟩ := Option.ne_none_iff_exists'.mp hheld
  have hsecond : Claims.TwoByteFormat b0.toNat → ¬ Claims.SecondAbsent s :=
    fun htwo habs => hpresent ⟨b0, h0, htwo, habs⟩
  obtain ⟨c, hc⟩ := exists_inClass b0 fun hadd => hok ⟨b0, h0, hadd.imp_right fun hC6 =>
    ⟨hC6, not_or.mp (hsecond (.inr (by omega)))⟩⟩
  exact ⟨b0, c, h0, hc, hsecond⟩

/-- Settles O23: a byte of a class is refused as R202 says, and a refused step has a byte of some class, which fixes
what it reports. -/
theorem unimplementedExactlyByClass : Obligations.UnimplementedExactlyByClass := by
  intro s c b0 b1
  constructor
  · intro h
    obtain ⟨x, d, h0, hd, hsecond⟩ := exists_inClass_of_refused h
    by_cases htwo : d = .block3ImmOp ∨ d = .prefixed
    · obtain ⟨hpc, hheld⟩ := not_or.mp (hsecond (twoByteFormat_of_inClass hd htwo))
      obtain ⟨n, h1⟩ := Option.ne_none_iff_exists'.mp hheld
      have hrefused := h.symm.trans (step_refused_of_inClass_two h0 hd htwo hpc h1)
      obtain ⟨rfl, rfl, rfl⟩ := Refusal.unimplemented.inj (Host.Outcome.refused.inj hrefused)
      exact ⟨h0, hd, (if_pos htwo).mpr ⟨hpc, h1.symm, Option.some_ne_none n⟩⟩
    · have hrefused := h.symm.trans (step_refused_of_inClass_one h0 hd htwo)
      obtain ⟨rfl, rfl, rfl⟩ := Refusal.unimplemented.inj (Host.Outcome.refused.inj hrefused)
      exact ⟨h0, hd, (if_neg htwo).mpr rfl⟩
  · rintro ⟨h0, hc, h1⟩
    split at h1
    case isTrue htwo =>
      obtain ⟨hpc, hb1, hheld⟩ := h1
      obtain ⟨n, rfl⟩ := Option.ne_none_iff_exists'.mp hheld
      exact step_refused_of_inClass_two h0 hc htwo hpc hb1.symm
    case isFalse hone =>
      subst h1
      exact step_refused_of_inClass_one h0 hc hone

end Sys2Proof.Machine

/-! # Family 70_reset_and_hazards: the reset state, the first step after it, and the frame of a run -/

namespace Sys2Proof.Machine

/-! ## The frame of a run -/

/-- What no OK step touches, from `s` to `t`: every register but `A`, `SP`, and the byte held at each address
(70_reset_and_hazards.md R244). -/
def AgreeOffAccumulator (s t : State) : Prop :=
  (∀ r, r ≠ .Acc → getReg r t = getReg r s) ∧ t.SP = s.SP ∧ ∀ a, fetch t.mem a = fetch s.mem a

theorem AgreeOffAccumulator.refl (s : State) : AgreeOffAccumulator s s :=
  ⟨fun _ _ => rfl, rfl, fun _ => rfl⟩

theorem AgreeOffAccumulator.trans {s t u : State} (hst : AgreeOffAccumulator s t)
    (htu : AgreeOffAccumulator t u) : AgreeOffAccumulator s u := by
  obtain ⟨hreg, hSP, hheld⟩ := hst
  obtain ⟨hreg', hSP', hheld'⟩ := htu
  exact ⟨fun r hr => (hreg' r hr).trans (hreg r hr), hSP'.trans hSP, fun a => (hheld' a).trans (hheld a)⟩

/-- An OK step is an instruction that answers a next state, whose frame is known (10_state.md R32). -/
theorem step_next_agreeOffAccumulator {s t : State} (h : step s = .next t) : AgreeOffAccumulator s t := by
  rcases step_of_decode s with ⟨-, hfault⟩ | ⟨i, -, hexec⟩
  · simp [hfault] at h
  · obtain ⟨hreg, hSP, -, hheld, -⟩ := instructionsLeaveTheRestUnchanged i s t (hexec.symm.trans h)
    exact ⟨hreg, hSP, hheld⟩

/-- Settles O43: the agreement with the first state holds before the run, and each OK step keeps it. -/
theorem runsNeverLoadOtherRegisters : Obligations.RunsNeverLoadOtherRegisters :=
  fun _ s _ hrun => runsOk_keeps (P := AgreeOffAccumulator s)
    (fun _ _ hagree hstep => hagree.trans (step_next_agreeOffAccumulator hstep)) hrun (.refl s)

/-! ## The first step after reset -/

/-- With no byte held at `PC` the window is empty (70_reset_and_hazards.md R242, decision D3). -/
theorem step_of_absent (s : State) (h0 : fetch s.mem s.PC = none) : step s = .fault .decodeInvalid :=
  step_of_decode_none s (by rw [fetchWindow, h0, decode])

/-- Settles O2: the first read of a step is the fetch at `PC`, which reset makes zero and `set_PC` writes. -/
theorem firstStepFetchesAtResetOrSetPC : Obligations.FirstStepFetchesAtResetOrSetPC :=
  fun m v => ⟨step_of_absent (setMem m State.reset), stepReads_head? (setMem m State.reset),
    stepReads_head? (setPC v (setMem m State.reset))⟩

/-! ## Zeroing by accessors -/

/-- Settles O4: the seven calls are writes that between them reach every register of the core, by its pair view where
it has one, and nothing of the collaborator. -/
theorem zeroingByAccessorsIsReset : Obligations.ZeroingByAccessorsIsReset := fun s =>
  calc session _ s
    _ = setPC 0 (setSP 0 (setF Flags.zero
          (setPair .HL 0 (setPair .DE 0 (setPair .BC 0 (setReg .Acc 0 s)))))) := rfl
    _ = setMem s.mem State.reset := rfl

end Sys2Proof.Machine

/-! # Family other: the round trip, placed instructions, canonical memories and reachable states -/

namespace Sys2Proof

/-! ## Decode and encode -/

/-- The round trip of Laws/PerInstr.lean, row by row. -/
theorem decode_encode_append : ∀ i, Laws.RoundTrip.Statement i
  | .addRegB => Laws.RoundTrip.addRegB
  | .addRegC => Laws.RoundTrip.addRegC
  | .addRegD => Laws.RoundTrip.addRegD
  | .addRegE => Laws.RoundTrip.addRegE
  | .addRegH => Laws.RoundTrip.addRegH
  | .addRegL => Laws.RoundTrip.addRegL
  | .addIndirect => Laws.RoundTrip.addIndirect
  | .addRegAcc => Laws.RoundTrip.addRegAcc
  | .addImmediate n => Laws.RoundTrip.addImmediate n
  | .block2Op1 r => Laws.RoundTrip.block2Op1 r
  | .block2Op2 r => Laws.RoundTrip.block2Op2 r
  | .block2Op3 r => Laws.RoundTrip.block2Op3 r
  | .block2Op4 r => Laws.RoundTrip.block2Op4 r
  | .block2Op5 r => Laws.RoundTrip.block2Op5 r
  | .block2Op6 r => Laws.RoundTrip.block2Op6 r
  | .block2Op7 r => Laws.RoundTrip.block2Op7 r
  | .block3ImmOp1 n => Laws.RoundTrip.block3ImmOp1 n
  | .block3ImmOp2 n => Laws.RoundTrip.block3ImmOp2 n
  | .block3ImmOp3 n => Laws.RoundTrip.block3ImmOp3 n
  | .block3ImmOp4 n => Laws.RoundTrip.block3ImmOp4 n
  | .block3ImmOp5 n => Laws.RoundTrip.block3ImmOp5 n
  | .block3ImmOp6 n => Laws.RoundTrip.block3ImmOp6 n
  | .block3ImmOp7 n => Laws.RoundTrip.block3ImmOp7 n
  | .prefixed sel => Laws.RoundTrip.prefixed sel
  | .block0 b0 => Laws.RoundTrip.block0 b0
  | .block1 b0 => Laws.RoundTrip.block1 b0
  | .block3OtherR0 b0 => Laws.RoundTrip.block3OtherR0 b0
  | .block3OtherR1 b0 => Laws.RoundTrip.block3OtherR1 b0
  | .block3OtherR2 b0 => Laws.RoundTrip.block3OtherR2 b0
  | .block3OtherR4 b0 => Laws.RoundTrip.block3OtherR4 b0
  | .block3OtherR5 b0 => Laws.RoundTrip.block3OtherR5 b0
  | .block3OtherR7 b0 => Laws.RoundTrip.block3OtherR7 b0
  | .block3OtherR3Op0 => Laws.RoundTrip.block3OtherR3Op0
  | .block3OtherR3Op2To3 b0 => Laws.RoundTrip.block3OtherR3Op2To3 b0
  | .block3OtherR3Op4To7 b0 => Laws.RoundTrip.block3OtherR3Op4To7 b0

/-- What a byte of a one-byte or undivided format decodes to is well-formed and has that byte as its encoding
(30_encoding.md R103). -/
theorem wf_encode_of_decode_single {b0 : Byte} {i : Instr} (hn : needsSecond b0 = false)
    (hdec : decode [b0] = some i) : i.wf = true ∧ encode i = [b0] := by
  have hall : (decode [b0]).all (fun j => j.wf && encode j == [b0]) = true := by
    clear hdec; revert b0; decide
  simpa [hdec] using hall

/-- What format ALU-I decodes to is well-formed, and its encoding is the format's fields and the literal byte
(30_encoding.md R97). -/
theorem wf_encode_decodeBlock3Imm (op : BitVec 3) (n : Byte) :
    (decodeBlock3Imm op n).wf = true ∧ encode (decodeBlock3Imm op n) = [opcodeByte 3#2 op 6#3, n] := by
  rcases op_cases op with rfl | rfl | rfl | rfl | rfl | rfl | rfl | rfl <;> exact ⟨rfl, rfl⟩

/-- What the two bytes of a two-byte format decode to is well-formed and has them as its encoding (30_encoding.md
R92, R97). -/
theorem wf_encode_of_decode_pair {b0 b1 : Byte} {i : Instr} (hn : needsSecond b0 = true)
    (hdec : decode [b0, b1] = some i) : i.wf = true ∧ encode i = [b0, b1] := by
  obtain rfl := Option.some.inj ((decode_pair_of_needsSecond b0 b1 hn).symm.trans hdec)
  by_cases hcb : b0 = 0xCB#8
  · subst hcb
    exact ⟨rfl, rfl⟩
  · obtain ⟨hblk, hr⟩ : blkOf b0 = 3#2 ∧ rOf b0 = 6#3 := by simpa [needsSecond, hcb] using hn
    rw [if_neg hcb]
    have henc := wf_encode_decodeBlock3Imm (opOf b0) b1
    rwa [← hblk, ← hr, opcodeByte_fields] at henc

/-- A window that decodes begins with the bytes of what it decodes to: its first byte, or its first two where the
format has a second. -/
theorem wf_and_begins_with_encode_of_decode {w : List Byte} {i : Instr} (hdec : decode w = some i) :
    i.wf = true ∧ ∃ rest, w = encode i ++ rest := by
  match w with
  | [] => simp at hdec
  | b0 :: rest =>
    cases hn : needsSecond b0 with
    | false =>
      rw [decode_first_alone b0 rest hn] at hdec
      obtain ⟨hwf, henc⟩ := wf_encode_of_decode_single hn hdec
      exact ⟨hwf, rest, by rw [henc, List.singleton_append]⟩
    | true =>
      match rest with
      | [] => simp [decode_single_of_needsSecond b0 hn] at hdec
      | b1 :: rest =>
        rw [decode_two] at hdec
        obtain ⟨hwf, henc⟩ := wf_encode_of_decode_pair hn hdec
        exact ⟨hwf, rest, by rw [henc]; rfl⟩

/-- Settles O18: the window's first bytes are the encoding of what it decodes to, and every row's encoding decodes
to the row whatever follows. -/
theorem decodeInvertsEncode : Obligations.DecodeInvertsEncode := by
  refine fun w i => ⟨wf_and_begins_with_encode_of_decode, ?_⟩
  rintro ⟨hwf, rest, rfl⟩
  exact decode_encode_append i hwf rest

/-- Settles O11: each of the thirteen windows is evaluated. -/
theorem sampleWordsDecodeAsTheSpecSays : Obligations.SampleWordsDecodeAsTheSpecSays :=
  ⟨rfl, rfl, rfl, rfl, rfl, rfl, rfl, rfl, rfl, rfl, rfl, rfl, rfl⟩

end Sys2Proof

namespace Sys2Proof.Machine

/-! ## The invariant over sessions from reset -/

/-- What every turn keeps, a session keeps (70_reset_and_hazards.md R247). -/
theorem session_keeps {P : State → Prop} (hturn : ∀ s x, P s → P (turn x s)) (ts : List Turn) {s : State}
    (hs : P s) : P (session ts s) := by
  induction ts generalizing s with
  | nil => exact hs
  | cons x ts ih => exact ih (hturn s x hs)

/-- Settles O3: the reset memory is canonical, and the flags byte has no low nibble. -/
theorem resetMeetsInvariant : Obligations.ResetMeetsInvariant :=
  (stateInv_iff_cells_wf State.reset).mpr reset_mem_wf

/-- Settles O56: the invariant holds at reset and every turn keeps it. -/
theorem everyReachableStateMeetsInvariant : Obligations.EveryReachableStateMeetsInvariant := by
  rintro _ ⟨ts, rfl⟩
  obtain ⟨-, hturn⟩ := stepKeepsInvariant
  exact session_keeps hturn ts resetMeetsInvariant

/-! ## Canonical memories -/

/-- With the addresses rising, reading an address finds the byte listed with it. -/
theorem Memory.read_eq_some_iff {m : Memory} (h : m.Pairwise fun x y => x.1 < y.1) (a : Nat) (b : Byte) :
    Memory.read m a = some b ↔ (a, b) ∈ m := by
  induction m with
  | nil => simp
  | cons c rest ih =>
    obtain ⟨k, x⟩ := c
    obtain ⟨hk, hrest⟩ := List.pairwise_cons.mp h
    rw [Memory.read_cons, List.mem_cons, Prod.mk.injEq]
    by_cases hka : k = a
    · subst hka
      have hnot : (k, b) ∉ rest := fun hmem => Nat.lt_irrefl k (hk _ hmem)
      simp [hnot, eq_comm]
    · simp [hka, Ne.symm hka, ih hrest]

/-- Of two canonical memories that read alike, each lists what the other lists. -/
theorem Memory.mem_of_reads_eq {m1 m2 : Memory} (h1 : Memory.wf m1) (h2 : Memory.wf m2)
    (hread : ∀ a, a < 65536 → Memory.read m1 a = Memory.read m2 a) {c : Host.Cell} (hc : c ∈ m1) : c ∈ m2 := by
  obtain ⟨hrise1, hbound1⟩ := h1
  obtain ⟨hrise2, -⟩ := h2
  rwa [← Memory.read_eq_some_iff hrise2, ← hread c.1 (hbound1 c hc), Memory.read_eq_some_iff hrise1]

/-- Settles O52: memories that read alike list the same cells, and cells with rising addresses have one order. -/
theorem canonicalMemoriesAreEqualData : Obligations.CanonicalMemoriesAreEqualData := by
  intro m1 m2 h1 h2 hread
  refine List.Subset.antisymm_of_pairwise h1.left h2.left ?_ ?_
  · exact fun _ hc => Memory.mem_of_reads_eq h1 h2 hread hc
  · exact fun _ hc => Memory.mem_of_reads_eq h2 h1 (fun a ha => (hread a ha).symm) hc

/-! ## Placing an instruction -/

/-- At the top of memory placing is one change inside the collaborator (20_memory.md R63). -/
theorem withFetchWord_at_top (s : State) (nbits w : Nat) (hpc : s.PC = 0xFFFF) :
    s.withFetchWord nbits w = turn (.collab (.hold s.PC (tableBytes nbits w).1)) s :=
  if_pos hpc

/-- Below the top placing is two changes inside the collaborator, at `PC` and at `PC + 1`. -/
theorem withFetchWord_below_top (s : State) (nbits w : Nat) (hpc : s.PC ≠ 0xFFFF) :
    s.withFetchWord nbits w = turn (.collab (.hold (s.PC + 1) (tableBytes nbits w).2))
      (turn (.collab (.hold s.PC (tableBytes nbits w).1)) s) := by
  have hnext : s.PC.toNat + 1 = (s.PC + 1).toNat := by bv_omega
  rw [State.withFetchWord, placeAtPC, if_neg hpc, hnext]
  rfl

/-- Placing changes the bytes the collaborator holds and nothing else. -/
theorem withFetchWord_eq_setMem (s : State) (nbits w : Nat) :
    ∃ cells, s.withFetchWord nbits w = setMem { s.mem with cells := cells } s := by
  by_cases hpc : s.PC = 0xFFFF
  · exact ⟨_, withFetchWord_at_top s nbits w hpc⟩
  · exact ⟨_, withFetchWord_below_top s nbits w hpc⟩

@[simp] theorem withFetchWord_PC (s : State) (nbits w : Nat) : (s.withFetchWord nbits w).PC = s.PC := by
  obtain ⟨cells, hplaced⟩ := withFetchWord_eq_setMem s nbits w
  rw [hplaced, setMem_PC]

/-- The second byte of a placed instruction is held where the address space goes on. -/
theorem fetch_withFetchWord_second (s : State) (nbits w : Nat) (hpc : s.PC ≠ 0xFFFF) :
    fetch (s.withFetchWord nbits w).mem (s.PC + 1) = some (tableBytes nbits w).2 := by
  rw [withFetchWord_below_top s nbits w hpc]
  exact fetch_hold_same _ (s.PC + 1) _

/-- Away from `PC + 1`, or at the top, placing shows as the change at `PC` alone. -/
theorem fetch_withFetchWord_eq_hold (s : State) (nbits w : Nat) (a : Word) (h : s.PC ≠ 0xFFFF → a ≠ s.PC + 1) :
    fetch (s.withFetchWord nbits w).mem a =
      fetch (collabAfter (.hold s.PC (tableBytes nbits w).1) s.mem) a := by
  by_cases hpc : s.PC = 0xFFFF
  · rw [withFetchWord_at_top s nbits w hpc]
    rfl
  · rw [withFetchWord_below_top s nbits w hpc]
    exact fetch_hold_ne _ (s.PC + 1) a _ (h hpc)

/-- The first byte of a placed instruction is held at `PC`. -/
theorem fetch_withFetchWord_first (s : State) (nbits w : Nat) :
    fetch (s.withFetchWord nbits w).mem s.PC = some (tableBytes nbits w).1 := by
  rw [fetch_withFetchWord_eq_hold s nbits w s.PC fun _ => by simp, fetch_hold_same]

/-- At every other address the same byte, or none, is held as before. -/
theorem fetch_withFetchWord_ne (s : State) (nbits w : Nat) (a : Word) (h0 : a ≠ s.PC)
    (h1 : s.PC ≠ 0xFFFF → a ≠ s.PC + 1) : fetch (s.withFetchWord nbits w).mem a = fetch s.mem a := by
  rw [fetch_withFetchWord_eq_hold s nbits w a h1, fetch_hold_ne s.mem s.PC a _ h0]

/-- A placed instruction is executed, by its first byte or by both as its format needs. -/
theorem step_withFetchWord (s : State) (nbits w : Nat) (i : Instr) (hpc : s.PC ≠ 0xFFFF)
    (hdec : decodeTableWord nbits w = some i) :
    step (s.withFetchWord nbits w) = exec i (s.withFetchWord nbits w) := by
  have h0 := fetch_withFetchWord_first s nbits w
  have h1 := fetch_withFetchWord_second s nbits w hpc
  rw [← withFetchWord_PC s nbits w] at h0 h1 hpc
  rw [decodeTableWord] at hdec
  cases hn : needsSecond (tableBytes nbits w).1 with
  | true => exact step_of_two_bytes _ _ _ i h0 hn hpc h1 hdec
  | false => exact step_of_one_byte _ _ i h0 hn (decode_first_alone _ _ hn ▸ hdec)

/-- Settles O20: placing is one or two bytes supplied from outside, which the step then fetches. -/
theorem placedInstructionRunsNext : Obligations.PlacedInstructionRunsNext := by
  intro s nbits w
  obtain ⟨cells, hplaced⟩ := withFetchWord_eq_setMem s nbits w
  refine ⟨fun hpc i hdec => step_withFetchWord s nbits w i hpc hdec, fun hpc i hdec => ?_, by rw [hplaced]; rfl,
    by rw [hplaced, setMem_mem], by rw [hplaced, setMem_mem], by rw [hplaced, setMem_mem],
    fun a h0 h1 => fetch_withFetchWord_ne s nbits w a h0 fun _ => h1,
    fun hpc a h0 => fetch_withFetchWord_ne s nbits w a h0 fun hne => absurd hpc hne⟩
  rw [withFetchWord_at_top s nbits w hpc]
  exact step_of_held_at_PC s _ i hdec

/-! ## Add of a ready answer -/

/-- Settles O35: the resolver's data read takes the ready answer, whatever is held at `HL`. -/
theorem addOfTheIndirectByteForEveryAnswer : Obligations.AddOfTheIndirectByteForEveryAnswer := by
  intro s v rest hready
  have hread : resolve .indirect s = (v, { s.mem with replies := rest }) :=
    memRead_ready s.mem (getPair .HL s) v rest hready
  have hexec := exec_addOf_eq_afterAdd .indirect s
  rwa [hread] at hexec

end Sys2Proof.Machine
